-- ==== Sys2Proof/Word.lean ====
section
/-! DEFINITION. The words of FPM-CORE's interface and tables (00_scope.md R10, R11; 30_encoding.md R60). -/

namespace Sys2Proof

/-- A 32-bit word: the operand register A and the result register VALUE (10_state.md R24). -/
abbrev Word := BitVec 32

/-- An operation code: the register OP (10_state.md R24). -/
abbrev OpCode := BitVec 4

/-- A count of bisection steps: the register ITERS (10_state.md R24). -/
abbrev IterCount := BitVec 8

/-- A request word of the one format REQ36 (30_encoding.md R60). -/
abbrev Request := BitVec 36

/-- A response word (30_encoding.md R60). -/
abbrev ResponseWord := BitVec 40

/-- An entry of SIN_TABLE or RSQRT_TABLE: an unsigned 16-bit integer (20_memory.md R42, R43). -/
abbrev Entry := BitVec 16

end Sys2Proof
end

