-- ==== Sys2Proof/Config.lean ====
section
/-! DEFINITION. The build-time configuration of 00_scope.md R6, the generated tables it comes with, and the
free values: constants of which nothing is known. -/

namespace Sys2Proof

/-- INTERP_DIV, the integer division of the rounding blend (00_scope.md R6, 92_eei_decisions.md D11). -/
inductive InterpDiv where
  /-- Division rounded toward zero, the default. -/
  | tdiv
  /-- Floor division. -/
  | fdiv
deriving DecidableEq, Repr

/-- RSQRT_OOD, what RSQRTTBL does outside its domain (00_scope.md R6, 43_rsqrt_table.md R119). -/
inductive RsqrtOod where
  /-- The response is any u32 with ITERS 0, the default. -/
  | draw
  /-- The request has no meaning. -/
  | refuse
deriving DecidableEq, Repr

/-- When a request is refused that RSQRT_OOD = `refuse` refuses. The spec's rules differ: 10_state.md R27 takes every
request but a reserved op code and 43_rsqrt_table.md R118 tests the domain at Complete, while 60_exceptions.md R147 has
a request refused before it changes any register. DESIGN CHOICE: both are modelled, as a parameter (log 22). -/
inductive RefusalPoint where
  /-- At its Issue, before OP, A and PHASE are written (R147). -/
  | issue
  /-- At its Complete, after Issue wrote OP, A and PHASE and before VALUE and ITERS are (R27, R29, R118). -/
  | complete
deriving DecidableEq, Repr

/-- A stretch of consecutive operands of RSQRTTBL that a split treats alike (log 12): its first operand stands at
position `start` (which is `idx * 2^fracBits + frac`), and each next operand one position further. -/
structure SplitRegion where
  /-- How many operands the stretch holds. -/
  size : Nat
  /-- The position of its first operand. -/
  start : Nat
  /-- The number of fraction bits, so that `M = 2^fracBits`. -/
  fracBits : Nat
deriving DecidableEq, Repr

/-- RSQRT_TABLE_SPLIT, how RSQRTTBL splits its operand (00_scope.md R6, 43_rsqrt_table.md R117, log 12). -/
inductive RsqrtTableSplit where
  /-- The split R117 writes out. -/
  | default
  /-- Any other split: stretches of operands that follow each other from `2^22` on. -/
  | regions (rs : List SplitRegion)
deriving DecidableEq, Repr

/-- The build-time configuration of 00_scope.md R6, with the tables that go with its table bits (R9). -/
structure Config where
  /-- SQRT_TOLERANCE_BITS. -/
  sqrtToleranceBits : Nat
  /-- SQRT_MAX_ITERATIONS. -/
  sqrtMaxIterations : Nat
  /-- RSQRT_TOLERANCE_BITS. -/
  rsqrtToleranceBits : Nat
  /-- RSQRT_MAX_ITERATIONS. -/
  rsqrtMaxIterations : Nat
  /-- RSQRT_TABLE_BITS (RTB). -/
  rsqrtTableBits : Nat
  /-- SIN_TABLE_BITS (TB). -/
  sinTableBits : Nat
  /-- ANGLE_BITS (N). -/
  angleBits : Nat
  /-- SIN_TABLE, read by entry number. -/
  sinTable : List Entry
  /-- RSQRT_TABLE, read by entry number. -/
  rsqrtTable : List Entry
  /-- INTERP_DIV. -/
  interpDiv : InterpDiv
  /-- RSQRT_TABLE_SPLIT. -/
  rsqrtTableSplit : RsqrtTableSplit
  /-- RSQRT_OOD. -/
  rsqrtOod : RsqrtOod
  /-- The model's own parameter: when `refuse` refuses (log 22). Without effect under `draw`. -/
  oodRefusedAt : RefusalPoint
deriving DecidableEq, Repr

/-- The `draw u32` of 43_rsqrt_table.md R119: the draw's number and the operand give the value (log 5). -/
opaque Config.freeOutOfDomain : Nat → Word → Word

/-- LOWER after a request completes (10_state.md R25: unspecified, at most `2^18`; log 6). -/
opaque Config.freeLower : Nat → OpCode → Word → Fin (2 ^ 18 + 1)

/-- UPPER after a request completes (10_state.md R25: unspecified, at most `2^18`; log 6). -/
opaque Config.freeUpper : Nat → OpCode → Word → Fin (2 ^ 18 + 1)

/-- TOL after a request completes (10_state.md R25: unspecified, at most `2^18`; log 6). -/
opaque Config.freeTol : Nat → OpCode → Word → Fin (2 ^ 18 + 1)

/-- K after a request completes (10_state.md R25: unspecified, at most 255; log 6). -/
opaque Config.freeK : Nat → OpCode → Word → Fin 256

/-- The samples the deployed sine table is made of: not in the source (20_memory.md R42, log 4). -/
opaque Config.freeSinSample : Nat → Entry

/-- The samples the deployed reciprocal-sqrt table is made of: not in the source (20_memory.md R43, log 4). -/
opaque Config.freeRsqrtSample : Nat → Entry

/-- Whether the deployed reciprocal-sqrt table rises or falls: not in the source (20_memory.md R43, log 4). -/
opaque Config.freeRsqrtRises : Bool

/-- The greatest of the samples 0 to `k`. -/
def Config.runMax (sample : Nat → Entry) : Nat → Entry
  | 0 => sample 0
  | k + 1 => if (runMax sample k).toNat ≤ (sample (k + 1)).toNat then sample (k + 1) else runMax sample k

/-- The least of the samples 0 to `k`. -/
def Config.runMin (sample : Nat → Entry) : Nat → Entry
  | 0 => sample 0
  | k + 1 => if (sample (k + 1)).toNat ≤ (runMin sample k).toNat then sample (k + 1) else runMin sample k

/-- A sine table of `2^tb + 1` entries of which only what 20_memory.md R42 says is known: 0 first, 4096 last,
non-decreasing between (log 4). -/
def Config.someSinTable (tb : Nat) : List Entry :=
  (List.range (2 ^ tb + 1)).map fun k =>
    if k = 0 then 0#16
    else if k = 2 ^ tb then 4096#16
    else if (runMax freeSinSample k).toNat ≤ 4096 then runMax freeSinSample k else 4096#16

/-- A reciprocal-sqrt table of `2^rtb + 1` entries of which only what 20_memory.md R43 says is known: it is
monotonic (log 4). -/
def Config.someRsqrtTable (rtb : Nat) : List Entry :=
  (List.range (2 ^ rtb + 1)).map fun k =>
    bif freeRsqrtRises then runMax freeRsqrtSample k else runMin freeRsqrtSample k

/-- The build State.reset stands for: every value and default of 00_scope.md R6; `N = 12` and `TB = 6` as in the
spec's examples (log 3); the tables free (log 4). -/
def Config.build : Config where
  sqrtToleranceBits := 6
  sqrtMaxIterations := 10
  rsqrtToleranceBits := 6
  rsqrtMaxIterations := 10
  rsqrtTableBits := 7
  sinTableBits := 6
  angleBits := 12
  sinTable := someSinTable 6
  rsqrtTable := someRsqrtTable 7
  interpDiv := .tdiv
  rsqrtTableSplit := .default
  rsqrtOod := .draw
  oodRefusedAt := .complete

end Sys2Proof
end

