-- ==== Sys2Proof/Machine/State.lean ====
section
/-! DEFINITION. The state of FPM-CORE (10_state.md R20, R24, R25), what the host still does, the ways a step can
stop (60_exceptions.md R142), and the state after reset (70_reset_and_hazards.md R160). -/

namespace Sys2Proof.Machine

/-- PHASE: where the block is in the request protocol (10_state.md R24). -/
inductive Phase where
  /-- No request completed since reset. -/
  | idle
  /-- A request is in flight. -/
  | busy
  /-- The last request has completed. -/
  | done
deriving DecidableEq, Repr

/-- The hidden working registers of the bisection (10_state.md R25). They hold mathematical integers: R25 gives them
bounds and no width. -/
structure Work where
  /-- LOWER, the lower end of the bracket. -/
  lower : Nat
  /-- UPPER, the upper end of the bracket. -/
  upper : Nat
  /-- TOL, the tolerance. -/
  tol : Nat
  /-- K, the iteration counter. -/
  k : Nat
deriving DecidableEq, Repr

/-- What an operation answers: the value before it is stored modulo `2^32`, and the steps used (10_state.md R31). -/
structure Answer where
  /-- The value, in `[−2^31, 2^32 − 1]`. -/
  value : Int
  /-- The bisection steps used, in `[0, 255]`. -/
  iters : Nat
deriving DecidableEq, Repr

/-- What the host can do (10_state.md R26, R32). -/
inductive HostAction where
  /-- Issue of a request word (10_state.md R27, 30_encoding.md R60). -/
  | issue (r : Request)
  /-- Read of the response (10_state.md R30). -/
  | read
  /-- A look at PHASE (10_state.md R32). -/
  | observe
deriving DecidableEq, Repr

/-- Which agent moves (10_state.md R26; 70_reset_and_hazards.md R160 for reset). -/
inductive Turn where
  /-- The host takes its next action. -/
  | host
  /-- The block takes its Complete step. -/
  | block
  /-- Reset comes. -/
  | reset
deriving DecidableEq, Repr

/-- The holds of 60_exceptions.md R142: the host waits, and nothing stops. -/
inductive Hold where
  /-- Issue in BUSY (10_state.md R28). -/
  | issueWhileBusy
  /-- Read in BUSY (10_state.md R30). -/
  | readWhileBusy
deriving DecidableEq, Repr

/-- What the host has been given. -/
inductive Reply where
  /-- The pair a Read returns (10_state.md R30). -/
  | response (value : Word) (iters : IterCount)
  /-- The PHASE a look returns (10_state.md R32). -/
  | phase (p : Phase)
deriving DecidableEq, Repr

/-- The state of FPM-CORE, with the build it is a block of, and the host's side of the interface. -/
structure State where
  /-- OP, the op code of the current or last request (R24). -/
  op : OpCode
  /-- A, the operand of the current or last request (R24). -/
  a : Word
  /-- VALUE, the result of the last completed request (R24). -/
  value : Word
  /-- ITERS, the bisection steps of the last completed request (R24). -/
  iters : IterCount
  /-- PHASE (R24). -/
  phase : Phase
  /-- LOWER, UPPER, TOL and K (R25). -/
  work : Work
  /-- The hold the host is under, if any (60_exceptions.md R142; log 11). -/
  held : Option Hold
  /-- The configuration and tables: a parameter of the model that no step changes (R20; log 1). -/
  cfg : Config
  /-- The model's own counter of draws, behind every free value (log 7). -/
  draws : Nat
  /-- The model's own list of the host's actions still to come, oldest first (log 8). -/
  pending : List HostAction
  /-- The model's own list of who moves next (log 8). -/
  turns : List Turn
  /-- The model's own record of what the host has been given, newest first (log 10). -/
  replies : List Reply
deriving DecidableEq, Repr

/-- The faults (60_exceptions.md R142). -/
inductive Fault where
  /-- Raised by Read in IDLE (10_state.md R30, 60_exceptions.md R142, 92_eei_decisions.md D18). Safe: the model stops where no later step would lift a hold. -/
  | readBeforeResponse
deriving DecidableEq, Repr

/-- The refusals (60_exceptions.md R142). -/
inductive Refusal where
  /-- Raised by Issue of an op code 0x7 to 0xF (30_encoding.md R64). Safe: it proves less than a circuit may do. -/
  | reservedOp (op : OpCode)
  /-- Raised when RSQRT_OOD is `refuse` by RSQRTTBL outside its domain (43_rsqrt_table.md R119): at its Complete, or at
  its Issue in a build that refuses there (log 22). Safe. -/
  | rsqrtTableOutOfDomain (a : Word)
  /-- Raised by every step under a configuration that breaks 00_scope.md R8, and by a table read outside its table,
  which only such a configuration can cause (log 14). Safe. -/
  | illFormedConfig
  /-- Raised by nothing: every instruction has its meaning. Safe. -/
  | notModelled (mnemonic : String)
deriving DecidableEq, Repr

/-- The registers of the block after reset: PHASE is IDLE (70_reset_and_hazards.md R160). The spec gives the others
no value; DESIGN CHOICE: 0 (log 2). -/
def State.reset : State where
  op := 0#4
  a := 0#32
  value := 0#32
  iters := 0#8
  phase := .idle
  work := ⟨0, 0, 0, 0⟩
  held := none
  cfg := Config.build
  draws := 0
  pending := []
  turns := []
  replies := []

end Sys2Proof.Machine
end

