-- ==== Sys2Proof/Machine/Flags.lean ====
section
/-! DEFINITION. FPM-CORE has no status flags and no condition codes: every operation writes none (10_state.md R23).
The only status a host can read is PHASE. -/

namespace Sys2Proof.Machine

/-- The status a host can read at any time (10_state.md R23, R24). -/
def State.status (s : State) : Phase := s.phase

/-- A request is in flight (10_state.md R29). -/
def State.isBusy (s : State) : Bool := decide (s.phase = .busy)

end Sys2Proof.Machine
end

