-- ==== Sys2Proof/Machine/Operands.lean ====
section
/-! DEFINITION. How an operation reads its operand (30_encoding.md R66): bit fields (00_scope.md R10), the angle and
its four fields (44_sincos.md R125, R126), the domain and the split of RSQRTTBL (43_rsqrt_table.md R116, R117). -/

namespace Sys2Proof.Machine

/-- The field of `width` bits of `v` whose lowest bit is `lo`; an empty field reads as 0 (00_scope.md R10). -/
def field (v lo width : Nat) : Nat := (v >>> lo) % 2 ^ width

/-- The operand of op codes 0x0 to 0x4: all 32 bits, unsigned (30_encoding.md R66). -/
def operandU32 (a : Word) : Nat := a.toNat

/-- The angle `A[N−1:0]` of SIN and COS; the bits above are ignored (30_encoding.md R66, 44_sincos.md R125). -/
def angleOf (c : Config) (a : Word) : Nat := field a.toNat 0 c.angleBits

/-- The four fields of an angle (44_sincos.md R126). -/
structure AngleFields where
  /-- The half bit. -/
  h : Nat
  /-- The quarter bit. -/
  q : Nat
  /-- The table index. -/
  i : Nat
  /-- The interpolation fraction. -/
  f : Nat
deriving DecidableEq, Repr

/-- `FB = N − 2 − TB`, the bits of the fraction (44_sincos.md R126). -/
def sinFracBits (c : Config) : Nat := c.angleBits - 2 - c.sinTableBits

/-- The field split of an angle (44_sincos.md R126). -/
def angleFields (c : Config) (ang : Nat) : AngleFields where
  h := field ang (c.angleBits - 1) 1
  q := field ang (c.angleBits - 2) 1
  i := field ang (sinFracBits c) c.sinTableBits
  f := field ang 0 (sinFracBits c)

/-- The domain `[2^22, 2^24)` of RSQRTTBL (43_rsqrt_table.md R116). -/
def inRsqrtDomain (a : Word) : Bool :=
  decide (2 ^ 22 ≤ a.toNat) && decide (a.toNat < 2 ^ 24)

/-- Index, fraction and denominator of a blend (43_rsqrt_table.md R117). -/
structure SplitPoint where
  /-- The entry the blend starts from. -/
  idx : Nat
  /-- The fraction. -/
  frac : Nat
  /-- The denominator, a power of two. -/
  m : Nat
deriving DecidableEq, Repr

/-- The point at position `pos` of a table read with `fb` fraction bits. -/
def splitAt (fb pos : Nat) : SplitPoint where
  idx := pos >>> fb
  frac := pos % 2 ^ fb
  m := 2 ^ fb

/-- The point of the operand that stands `off` places after the start of the first stretch (log 12). -/
def splitRegions : List SplitRegion → Nat → Option SplitPoint
  | [], _ => none
  | r :: rs, off => if off < r.size then some (splitAt r.fracBits (r.start + off)) else splitRegions rs (off - r.size)

/-- RSQRT_TABLE_SPLIT on an in-domain operand; the default is 43_rsqrt_table.md R117, with `FB = 24 − RTB`. -/
def rsqrtSplit (c : Config) (a : Word) : Option SplitPoint :=
  match c.rsqrtTableSplit with
  | .default => some (splitAt (24 - c.rsqrtTableBits) (a.toNat - 2 ^ 22))
  | .regions rs => splitRegions rs (a.toNat - 2 ^ 22)

end Sys2Proof.Machine
end

