-- ==== Sys2Proof/Machine/Ops.lean ====
section
/-! DEFINITION. The operations the families share: table reads (20_memory.md R41, R45), Log2Floor (40_log2.md R81),
Bisect (41_sqrt.md R90), Lerp (43_rsqrt_table.md R115), and the end of a request (10_state.md R29, R31).
FPM-CORE takes no exception and returns from none: it has no causes, no saved state and no vector
(60_exceptions.md R140, R147, R148). -/

namespace Sys2Proof.Machine

/-- `Table(T, i)`: entry `i`, and nothing outside the table (20_memory.md R45; log 19). -/
def readTable {α : Type} (t : List α) (i : Nat) : Option α := t[i]?

/-- LOG2_TABLE, 256 signed bytes, as listed by ranges (20_memory.md R41). -/
def log2Table : List Int :=
  [-1] ++ [0] ++ List.replicate 2 1 ++ List.replicate 4 2 ++ List.replicate 8 3 ++ List.replicate 16 4 ++
    List.replicate 32 5 ++ List.replicate 64 6 ++ List.replicate 128 7

/-- `Table(LOG2_TABLE, b)` for a byte `b`; the table has an entry for every byte (40_log2.md R81). -/
def log2Entry (b : Nat) : Int := (readTable log2Table b).getD (-1)

/-- `Log2Floor(v)`: the upper half, then one byte of the chosen half, one table read (40_log2.md R81). -/
def log2Floor (v : Word) : Int :=
  let hi16 := field v.toNat 16 16
  let lo16 := field v.toNat 0 16
  if hi16 ≠ 0 then
    if field hi16 8 8 ≠ 0 then 24 + log2Entry (field hi16 8 8) else 16 + log2Entry (field hi16 0 8)
  else
    if field lo16 8 8 ≠ 0 then 8 + log2Entry (field lo16 8 8) else 0 + log2Entry (field lo16 0 8)

/-- The seed of Bisect: TOL is computed once, from the seed lower bound (41_sqrt.md R90). -/
def bisectSeed (lo0 hi0 tb : Nat) : Work where
  lower := lo0
  upper := hi0
  tol := (lo0 >>> tb) + 1
  k := 0

/-- The midpoint of the bracket, rounded down (41_sqrt.md R90). -/
def bracketMid (w : Work) : Nat := (w.lower + w.upper) >>> 1

/-- One step of Bisect: a guess that is too big becomes UPPER, any other LOWER; K counts it (41_sqrt.md R90). -/
def bisectStep (tooBig : Nat → Bool) (w : Work) : Work :=
  if tooBig (bracketMid w) then { w with upper := bracketMid w, k := w.k + 1 }
  else { w with lower := bracketMid w, k := w.k + 1 }

/-- The exit test, made before every step: `K < maxIter and UPPER − LOWER > TOL` (41_sqrt.md R90). -/
def bisectGoing (maxIter : Nat) (w : Work) : Bool :=
  decide (w.k < maxIter) && decide (w.upper - w.lower > w.tol)

/-- The loop of Bisect; its first argument bounds the steps looked at. -/
def bisectLoop (maxIter : Nat) (tooBig : Nat → Bool) : Nat → Work → Work
  | 0, w => w
  | n + 1, w => if bisectGoing maxIter w then bisectLoop maxIter tooBig n (bisectStep tooBig w) else w

/-- `Bisect(lo0, hi0, tb, maxIter, TooBig)`: the working registers at its end (41_sqrt.md R90). K grows with every
step, so `maxIter` looks at the exit test are all it makes that can pass. -/
def bisect (lo0 hi0 tb maxIter : Nat) (tooBig : Nat → Bool) : Work :=
  bisectLoop maxIter tooBig maxIter (bisectSeed lo0 hi0 tb)

/-- What Bisect returns: the midpoint of the final bracket, and the steps used (41_sqrt.md R90). -/
def bisectAnswer (w : Work) : Answer := ⟨(bracketMid w : Nat), w.k⟩

/-- INTERP_DIV (43_rsqrt_table.md R115). -/
def interpDiv (d : InterpDiv) (x y : Int) : Int :=
  match d with
  | .tdiv => Int.tdiv x y
  | .fdiv => Int.fdiv x y

/-- `Lerp(t0, t1, frac, M)`, exact and signed (43_rsqrt_table.md R115). -/
def lerp (d : InterpDiv) (t0 t1 : Int) (frac m : Nat) : Int :=
  t0 + interpDiv d ((t1 - t0) * frac + (m >>> 1 : Nat)) m

/-- Lerp of entries `idx` and `idx + 1` of a table (43_rsqrt_table.md R118, 44_sincos.md R127). -/
def lerpTable (d : InterpDiv) (t : List Entry) (p : SplitPoint) : Option Int :=
  match readTable t p.idx, readTable t (p.idx + 1) with
  | some t0, some t1 => some (lerp d t0.toNat t1.toNat p.frac p.m)
  | _, _ => none

/-- The working registers once a request has completed: unspecified within their bounds (10_state.md R25, log 6). -/
def freeWork (n : Nat) (op : OpCode) (a : Word) : Work where
  lower := (Config.freeLower n op a).val
  upper := (Config.freeUpper n op a).val
  tol := (Config.freeTol n op a).val
  k := (Config.freeK n op a).val

/-- The working registers as Bisect leaves them. -/
def State.withWork (w : Work) (s : State) : State := { s with work := w }

/-- The end of a request: Respond writes VALUE and ITERS (10_state.md R31), PHASE becomes DONE (R29), which lifts a
hold (R28, R30); the working registers are unspecified from here on (R25). -/
def State.complete (r : Answer) (s : State) : State :=
  { s with
    value := BitVec.ofInt 32 r.value
    iters := BitVec.ofNat 8 r.iters
    phase := .done
    held := none
    work := freeWork s.draws s.op s.a
    draws := s.draws + 1 }

/-- The end of a request that bisected: the answer is what the working registers hold (41_sqrt.md R90). -/
def State.completeBisect (s : State) : State := s.complete (bisectAnswer s.work)

end Sys2Proof.Machine
end

