-- ==== Sys2Proof/Machine/Log2.lean ====
section
/-! DEFINITION. LOG2FLOOR and LOG2CEIL (40_log2.md R80 to R83). -/

namespace Sys2Proof.Machine

/-- What LOG2FLOOR answers (40_log2.md R82). -/
def log2FloorAnswer (a : Word) : Answer := ⟨log2Floor a, 0⟩

/-- What LOG2CEIL answers; 0 has its own test (40_log2.md R83). -/
def log2CeilAnswer (a : Word) : Answer :=
  if a = 0#32 then ⟨-1, 0⟩ else ⟨log2Floor (a - 1#32) + 1, 0⟩

/-- LOG2FLOOR a (40_log2.md R82). -/
def execLog2Floor (a : Word) (s : State) : Host.Outcome State Fault Refusal :=
  .next (s.complete (log2FloorAnswer a))

/-- LOG2CEIL a (40_log2.md R83). -/
def execLog2Ceil (a : Word) (s : State) : Host.Outcome State Fault Refusal :=
  .next (s.complete (log2CeilAnswer a))

end Sys2Proof.Machine
end

