-- ==== Sys2Proof/Machine/Rsqrt.lean ====
section
/-! DEFINITION. RSQRT (42_rsqrt.md R101, R104, R105, R109) with the fixed constants of 00_scope.md R7: F = 12,
T = 13, shifts 6 and 3, threshold 2^30. -/

namespace Sys2Proof.Machine

/-- The sentinel of `RSQRT 0` (42_rsqrt.md R109). -/
def rsqrtZeroAnswer : Answer := ⟨0xFFFFFFFF, 0⟩

/-- `lower = 1 << M_lb` with `M_lb = (3*F − n − 1) / 2` (42_rsqrt.md R101). -/
def rsqrtSeedLower (n : Nat) : Nat := 1 <<< ((3 * 12 - n - 1) / 2)

/-- `upper = 1 << M_ub` with `M_ub = (3*F − n + 1) / 2` (42_rsqrt.md R101). -/
def rsqrtSeedUpper (n : Nat) : Nat := 1 <<< ((3 * 12 - n + 1) / 2)

/-- `P(g)`: the product of the high regime `n ≥ 13` or of the low regime (42_rsqrt.md R105). -/
def rsqrtProduct (n a g : Nat) : Nat :=
  if n ≥ 13 then (g * g) * (a >>> 6) else ((g >>> 3) * (g >>> 3)) * a

/-- `TooBig(g)` of RSQRT: `P(g) > 2^30` (42_rsqrt.md R104). -/
def rsqrtTooBig (a : Word) (g : Nat) : Bool :=
  decide (rsqrtProduct (log2Floor a).toNat (operandU32 a) g > 2 ^ 30)

/-- The working registers at the end of the bisection of RSQRT (42_rsqrt.md R104). -/
def rsqrtWork (c : Config) (a : Word) : Work :=
  bisect (rsqrtSeedLower (log2Floor a).toNat) (rsqrtSeedUpper (log2Floor a).toNat) c.rsqrtToleranceBits
    c.rsqrtMaxIterations (rsqrtTooBig a)

/-- What RSQRT answers (42_rsqrt.md R104). -/
def rsqrtAnswer (c : Config) (a : Word) : Answer :=
  if a = 0#32 then rsqrtZeroAnswer else bisectAnswer (rsqrtWork c a)

/-- RSQRT a; 0 is answered without bisection (42_rsqrt.md R104, R109). -/
def execRsqrt (a : Word) (s : State) : Host.Outcome State Fault Refusal :=
  if a = 0#32 then .next (s.complete rsqrtZeroAnswer)
  else .next (s.withWork (rsqrtWork s.cfg a)).completeBisect

end Sys2Proof.Machine
end

