-- ==== Sys2Proof/Machine/RsqrtTable.lean ====
section
/-! DEFINITION. RSQRTTBL (43_rsqrt_table.md R116 to R119). -/

namespace Sys2Proof.Machine

/-- What RSQRTTBL answers on an in-domain operand, if both table reads are inside the table, as they are under every
well-formed configuration (43_rsqrt_table.md R118, R120). -/
def rsqrtTblAnswer (c : Config) (a : Word) : Option Answer :=
  match rsqrtSplit c a with
  | some p =>
    match lerpTable c.interpDiv c.rsqrtTable p with
    | some v => some ⟨v, 0⟩
    | none => none
  | none => none

/-- `OutOfDomain(a)` under `draw`: any u32, and ITERS 0 (43_rsqrt_table.md R119, log 5). -/
def outOfDomainAnswer (n : Nat) (a : Word) : Answer := ⟨(Config.freeOutOfDomain n a).toNat, 0⟩

/-- RSQRTTBL a: the domain test comes before any table read (43_rsqrt_table.md R118, R119; 60_exceptions.md R146).
A build that refuses such a request at its Issue (60_exceptions.md R147, log 22) never brings it here. -/
def execRsqrtTbl (a : Word) (s : State) : Host.Outcome State Fault Refusal :=
  if inRsqrtDomain a then
    match rsqrtTblAnswer s.cfg a with
    | some r => .next (s.complete r)
    | none => .refused .illFormedConfig
  else
    match s.cfg.rsqrtOod with
    | .draw => .next (s.complete (outOfDomainAnswer s.draws a))
    | .refuse => .refused (.rsqrtTableOutOfDomain a)

end Sys2Proof.Machine
end

