-- ==== Sys2Proof/Machine/SinCos.lean ====
section
/-! DEFINITION. SIN and COS (44_sincos.md R125 to R129). -/

namespace Sys2Proof.Machine

/-- Where in the quarter-period table an angle reads: directly when `q = 0`, from the other end when `q = 1`
(44_sincos.md R127). -/
def sinPoint (c : Config) (p : AngleFields) : SplitPoint where
  idx := if p.q = 0 then p.i else 2 ^ c.sinTableBits - 1 - p.i
  frac := if p.q = 0 then p.f else 2 ^ sinFracBits c - p.f
  m := 2 ^ sinFracBits c

/-- SIN of an N-bit angle, if both table reads are inside the table, as they are under every well-formed configuration
(44_sincos.md R127, R128). -/
def sinOfAngle (c : Config) (ang : Nat) : Option Answer :=
  match lerpTable c.interpDiv c.sinTable (sinPoint c (angleFields c ang)) with
  | some mag => some ⟨if (angleFields c ang).h = 1 then -mag else mag, 0⟩
  | none => none

/-- What SIN answers (44_sincos.md R127). -/
def sinAnswer (c : Config) (a : Word) : Option Answer := sinOfAngle c (angleOf c a)

/-- What COS answers: SIN of `(a[N−1:0] + 2^(N−2)) mod 2^N` (44_sincos.md R129). -/
def cosAnswer (c : Config) (a : Word) : Option Answer :=
  sinOfAngle c ((angleOf c a + 2 ^ (c.angleBits - 2)) % 2 ^ c.angleBits)

/-- SIN a (44_sincos.md R127). -/
def execSin (a : Word) (s : State) : Host.Outcome State Fault Refusal :=
  match sinAnswer s.cfg a with
  | some r => .next (s.complete r)
  | none => .refused .illFormedConfig

/-- COS a (44_sincos.md R129). -/
def execCos (a : Word) (s : State) : Host.Outcome State Fault Refusal :=
  match cosAnswer s.cfg a with
  | some r => .next (s.complete r)
  | none => .refused .illFormedConfig

end Sys2Proof.Machine
end

