-- ==== Sys2Proof/Machine/Sqrt.lean ====
section
/-! DEFINITION. SQRT (41_sqrt.md R91). -/

namespace Sys2Proof.Machine

/-- `lower`, the seed lower bound `2^floor(magn/2)` (41_sqrt.md R91). -/
def sqrtSeedLower (a : Word) : Nat := 1 <<< ((log2Floor a).toNat >>> 1)

/-- `TooBig(g)` of SQRT: `g * g > a` (41_sqrt.md R91). -/
def sqrtTooBig (a : Word) (g : Nat) : Bool := decide (g * g > operandU32 a)

/-- The working registers at the end of the bisection of SQRT (41_sqrt.md R91). -/
def sqrtWork (c : Config) (a : Word) : Work :=
  bisect (sqrtSeedLower a) (2 * sqrtSeedLower a) c.sqrtToleranceBits c.sqrtMaxIterations (sqrtTooBig a)

/-- What SQRT answers (41_sqrt.md R91). -/
def sqrtAnswer (c : Config) (a : Word) : Answer :=
  if a = 0#32 then ⟨0, 0⟩ else bisectAnswer (sqrtWork c a)

/-- SQRT a; 0 is answered without bisection (41_sqrt.md R91). -/
def execSqrt (a : Word) (s : State) : Host.Outcome State Fault Refusal :=
  if a = 0#32 then .next (s.complete ⟨0, 0⟩)
  else .next (s.withWork (sqrtWork s.cfg a)).completeBisect

end Sys2Proof.Machine
end

