-- ==== Sys2Proof/Syntax.lean ====
section
/-! DEFINITION. The seven requests of FPM-CORE: one constructor per row of spec/opcode_table.json
(30_encoding.md R62, R68). A request has one operand and no other field (R60). -/

namespace Sys2Proof

/-- A request `MNEMONIC a`. The operand is the whole register A; SIN and COS read only its low N bits (R66). -/
inductive Instr where
  /-- LOG2FLOOR a (40_log2.md R82). -/
  | log2floor (a : Word)
  /-- LOG2CEIL a (40_log2.md R83). -/
  | log2ceil (a : Word)
  /-- SQRT a (41_sqrt.md R91). -/
  | sqrt (a : Word)
  /-- RSQRT a (42_rsqrt.md R104). -/
  | rsqrt (a : Word)
  /-- RSQRTTBL a (43_rsqrt_table.md R118). -/
  | rsqrttbl (a : Word)
  /-- SIN a (44_sincos.md R127). -/
  | sin (a : Word)
  /-- COS a (44_sincos.md R129). -/
  | cos (a : Word)
deriving DecidableEq, Repr

/-- The operand of a request. -/
def Instr.operand : Instr → Word
  | .log2floor a => a
  | .log2ceil a => a
  | .sqrt a => a
  | .rsqrt a => a
  | .rsqrttbl a => a
  | .sin a => a
  | .cos a => a

end Sys2Proof
end

