-- ==== Sys2Proof/Machine/Dispatch.lean ====
section
/-! DEFINITION. Complete of each request (10_state.md R29, 30_encoding.md R63): one arm per constructor. -/

namespace Sys2Proof.Machine

def exec (i : Instr) (s : State) : Host.Outcome State Fault Refusal :=
  match i with
  | .log2floor a => Sys2Proof.Machine.execLog2Floor a s
  | .log2ceil a => Sys2Proof.Machine.execLog2Ceil a s
  | .sqrt a => Sys2Proof.Machine.execSqrt a s
  | .rsqrt a => Sys2Proof.Machine.execRsqrt a s
  | .rsqrttbl a => Sys2Proof.Machine.execRsqrtTbl a s
  | .sin a => Sys2Proof.Machine.execSin a s
  | .cos a => Sys2Proof.Machine.execCos a s

end Sys2Proof.Machine
end

