-- ==== Sys2Proof/WellFormed.lean ====
section
/-! DEFINITION. What a well-formed configuration is (00_scope.md R8), what the tables promise beyond that
(20_memory.md R42, R43), and which requests are well formed (30_encoding.md R64, R67). -/

namespace Sys2Proof

/-- `4 ≤ N ≤ 32` (00_scope.md R8). -/
def Config.angleBitsWf (c : Config) : Bool :=
  decide (4 ≤ c.angleBits) && decide (c.angleBits ≤ 32)

/-- `0 ≤ TB ≤ N − 2` (00_scope.md R8). -/
def Config.sinTableBitsWf (c : Config) : Bool :=
  decide (c.sinTableBits + 2 ≤ c.angleBits)

/-- `2 ≤ RTB ≤ 24` (00_scope.md R8). -/
def Config.rsqrtTableBitsWf (c : Config) : Bool :=
  decide (2 ≤ c.rsqrtTableBits) && decide (c.rsqrtTableBits ≤ 24)

/-- Both tolerance shifts are at most 31 (00_scope.md R8). -/
def Config.toleranceWf (c : Config) : Bool :=
  decide (c.sqrtToleranceBits ≤ 31) && decide (c.rsqrtToleranceBits ≤ 31)

/-- Both iteration caps are at most 255, so that the count fits ITERS (00_scope.md R8). -/
def Config.iterationsWf (c : Config) : Bool :=
  decide (c.sqrtMaxIterations ≤ 255) && decide (c.rsqrtMaxIterations ≤ 255)

/-- The table has exactly `n` entries. -/
def hasEntries : Nat → List Entry → Bool
  | 0, [] => true
  | 0, _ :: _ => false
  | _ + 1, [] => false
  | n + 1, _ :: t => hasEntries n t

/-- SIN_TABLE has exactly `2^TB + 1` entries, the first 0 and the last 4096 (00_scope.md R8). -/
def Config.sinTableWf (c : Config) : Bool :=
  hasEntries (2 ^ c.sinTableBits + 1) c.sinTable && decide (c.sinTable[0]? = some 0#16) &&
    decide (c.sinTable[2 ^ c.sinTableBits]? = some 4096#16)

/-- RSQRT_TABLE has exactly `2^RTB + 1` entries (00_scope.md R8). -/
def Config.rsqrtTableWf (c : Config) : Bool :=
  hasEntries (2 ^ c.rsqrtTableBits + 1) c.rsqrtTable

/-- Every operand of the stretch reads inside a table of `2^rtb + 1` entries. -/
def SplitRegion.inside (rtb : Nat) (r : SplitRegion) : Bool :=
  decide (0 < r.size) && decide ((r.start + r.size - 1) >>> r.fracBits + 1 ≤ 2 ^ rtb)

/-- A split covers the `3 * 2^22` operands of the domain and indexes inside the table for each, as 20_memory.md R45
says of every index formed in domain (log 12). The default does so by 43_rsqrt_table.md R120. -/
def Config.splitWf (c : Config) : Bool :=
  match c.rsqrtTableSplit with
  | .default => true
  | .regions rs =>
    decide ((rs.map SplitRegion.size).sum = 3 * 2 ^ 22) && rs.all (SplitRegion.inside c.rsqrtTableBits)

/-- A well-formed configuration: 00_scope.md R8, and `splitWf` for a split other than the default (log 13). -/
def Config.wf (c : Config) : Bool :=
  c.angleBitsWf && c.sinTableBitsWf && c.rsqrtTableBitsWf && c.toleranceWf && c.iterationsWf && c.sinTableWf &&
    c.rsqrtTableWf && c.splitWf

/-- SIN_TABLE is non-decreasing (20_memory.md R42): a premise about the deployed table, not a check of R8 (log 13). -/
abbrev Config.sinTableRises (c : Config) : Prop :=
  c.sinTable.Pairwise (fun x y => x.toNat ≤ y.toNat)

/-- RSQRT_TABLE is monotonic, in a direction the source does not state (20_memory.md R43): a premise (log 13). -/
abbrev Config.rsqrtTableMonotone (c : Config) : Prop :=
  c.rsqrtTable.Pairwise (fun x y => x.toNat ≤ y.toNat) ∨ c.rsqrtTable.Pairwise (fun x y => y.toNat ≤ x.toNat)

/-- A request word is well formed when its op code is not reserved (30_encoding.md R64). -/
def Request.wf (r : Request) : Bool :=
  decide ((r.extractLsb' 32 4).toNat ≤ 6)

/-- Every operand is legal for every op code (30_encoding.md R67), so every `Instr` is well formed. -/
def Instr.wf : Instr → Bool
  | .log2floor _ => true
  | .log2ceil _ => true
  | .sqrt _ => true
  | .rsqrt _ => true
  | .rsqrttbl _ => true
  | .sin _ => true
  | .cos _ => true

end Sys2Proof
end

