-- ==== Sys2Proof/Decode.lean ====
section
/-! DEFINITION. The decoder of request words, total and rejecting by name (30_encoding.md R60 to R64), and after it
the encoder, both from the operation map of R62 and the patterns of R70. -/

namespace Sys2Proof

/-- Why a word is no request. -/
inductive DecodeError where
  /-- The op code is one of 0x7 to 0xF (30_encoding.md R64). -/
  | reservedOp (op : OpCode)
  /-- The number is wider than the 36 bits of REQ36 (30_encoding.md R61, log 16). -/
  | notARequest (w : Nat)
deriving DecidableEq, Repr

/-- `op = req[35:32]` (30_encoding.md R60). -/
def requestOp (r : Request) : OpCode := r.extractLsb' 32 4

/-- `a = req[31:0]` (30_encoding.md R60). -/
def requestOperand (r : Request) : Word := r.extractLsb' 0 32

/-- The operation map: OP alone chooses the operation (30_encoding.md R61, R62, R64). -/
def decodeFields (op : OpCode) (a : Word) : Except DecodeError Instr :=
  match op.toNat with
  | 0 => .ok (.log2floor a)
  | 1 => .ok (.log2ceil a)
  | 2 => .ok (.sqrt a)
  | 3 => .ok (.rsqrt a)
  | 4 => .ok (.rsqrttbl a)
  | 5 => .ok (.sin a)
  | 6 => .ok (.cos a)
  | _ => .error (.reservedOp op)

/-- The instruction a request word stands for (30_encoding.md R60, R62). -/
def decode (r : Request) : Except DecodeError Instr :=
  decodeFields (requestOp r) (requestOperand r)

/-- The decoder on any number: what does not fit REQ36 is no request (30_encoding.md R61). -/
def decodeNumber (w : Nat) : Except DecodeError Instr :=
  if w < 2 ^ 36 then decode (BitVec.ofNat 36 w) else .error (.notARequest w)

/-- The decoder as the host asks for it. A request is one word and its bits are numbered as R60 numbers them, so
there is no byte order to lay out (20_memory.md R47); the bits above `nbits` are 0 already (log 16). -/
def decodeTableWord (_nbits w : Nat) : Option Instr :=
  match decodeNumber w with
  | .ok i => some i
  | .error _ => none

/-- The op code of a request (30_encoding.md R62). -/
def Instr.opcode : Instr → OpCode
  | .log2floor _ => 0x0#4
  | .log2ceil _ => 0x1#4
  | .sqrt _ => 0x2#4
  | .rsqrt _ => 0x3#4
  | .rsqrttbl _ => 0x4#4
  | .sin _ => 0x5#4
  | .cos _ => 0x6#4

/-- A request word from its two fields (30_encoding.md R60). -/
def requestOf (op : OpCode) (a : Word) : Request := op ++ a

/-- The request word of an instruction (30_encoding.md R60, R62). -/
def encode (i : Instr) : Request := requestOf i.opcode i.operand

/-- A response word: VALUE in bits 39 to 8, ITERS in bits 7 to 0 (30_encoding.md R60). -/
def responseOf (value : Word) (iters : IterCount) : ResponseWord := value ++ iters

/-- `VALUE` of a response word (30_encoding.md R60). -/
def responseValue (r : ResponseWord) : Word := r.extractLsb' 8 32

/-- `ITERS` of a response word (30_encoding.md R60). -/
def responseIters (r : ResponseWord) : IterCount := r.extractLsb' 0 8

/-- One row of the opcode table as match and mask over the request word (30_encoding.md R70). -/
structure OpcodeRow where
  /-- The mnemonic of the table. -/
  mnemonic : String
  /-- The bits the op code fixes. -/
  pattern : Request
  /-- Where they stand. -/
  mask : Request
deriving DecidableEq, Repr

/-- `match = op << 32` and `mask = 0xF << 32` for each operation (30_encoding.md R70, spec/opcode_table.json). -/
def opcodeRows : List OpcodeRow :=
  [⟨"LOG2FLOOR", 0x000000000#36, 0xF00000000#36⟩, ⟨"LOG2CEIL", 0x100000000#36, 0xF00000000#36⟩,
   ⟨"SQRT", 0x200000000#36, 0xF00000000#36⟩, ⟨"RSQRT", 0x300000000#36, 0xF00000000#36⟩,
   ⟨"RSQRTTBL", 0x400000000#36, 0xF00000000#36⟩, ⟨"SIN", 0x500000000#36, 0xF00000000#36⟩,
   ⟨"COS", 0x600000000#36, 0xF00000000#36⟩]

/-- A request word carries a row's op code. -/
def OpcodeRow.matches (row : OpcodeRow) (r : Request) : Bool := decide (r &&& row.mask = row.pattern)

/-- The mnemonic of a request (30_encoding.md R62). -/
def Instr.mnemonic : Instr → String
  | .log2floor _ => "LOG2FLOOR"
  | .log2ceil _ => "LOG2CEIL"
  | .sqrt _ => "SQRT"
  | .rsqrt _ => "RSQRT"
  | .rsqrttbl _ => "RSQRTTBL"
  | .sin _ => "SIN"
  | .cos _ => "COS"

end Sys2Proof
end

