-- ==== Sys2Proof/Machine/Protocol.lean ====
section
/-! DEFINITION. The request protocol around the block's Complete step: who moves, Issue, Read, Observe, holds and
reset (10_state.md R26 to R32; 70_reset_and_hazards.md R160, R161). -/

namespace Sys2Proof.Machine

/-- How a decoding error is refused (60_exceptions.md R142). -/
def refusalOf : DecodeError → Refusal
  | .reservedOp op => .reservedOp op
  | .notARequest w => .reservedOp (BitVec.ofNat 4 (w >>> 32))

/-- The request OP and A hold (10_state.md R29). -/
def requestInFlight (s : State) : Except Refusal Instr :=
  match decodeFields s.op s.a with
  | .ok i => .ok i
  | .error e => .error (refusalOf e)

/-- Who moves, and the state with that turn taken: the turns State lists, and after them the block while it is BUSY
(10_state.md R29: a BUSY block eventually completes) and the host otherwise (log 8, log 9). -/
def nextTurn (s : State) : Turn × State :=
  match s.turns with
  | t :: ts => (t, { s with turns := ts })
  | [] => if s.phase = .busy then (.block, s) else (.host, s)

/-- A host action that has been taken. -/
def State.dropAction (rest : List HostAction) (s : State) : State := { s with pending := rest }

/-- The effect of an enabled Issue: OP and A are written and PHASE becomes BUSY; VALUE and ITERS keep their
contents (10_state.md R27). -/
def State.takeRequest (op : OpCode) (a : Word) (s : State) : State :=
  { s with op := op, a := a, phase := .busy }

/-- The host waits; its action is neither lost nor queued in the block (10_state.md R28, R30). -/
def State.hold (h : Hold) (s : State) : State := { s with held := some h }

/-- The host is given something. -/
def State.give (r : Reply) (s : State) : State := { s with replies := r :: s.replies }

/-- Reset: every register as after reset; tables and configuration unchanged; a held host is released and keeps its
action (70_reset_and_hazards.md R160, R161; log 17). -/
def State.resetBlock (s : State) : State :=
  { s with
    op := State.reset.op
    a := State.reset.a
    value := State.reset.value
    iters := State.reset.iters
    phase := State.reset.phase
    work := State.reset.work
    held := State.reset.held }

/-- The refusal at its Issue of a request of a defined op code: none in a build that refuses at Complete
(10_state.md R27); in one that refuses at Issue (60_exceptions.md R147), that of RSQRTTBL outside its domain under
`refuse` (43_rsqrt_table.md R119; log 22). -/
def refusalAtIssue (c : Config) : Instr → Option Refusal
  | .log2floor _ => none
  | .log2ceil _ => none
  | .sqrt _ => none
  | .rsqrt _ => none
  | .rsqrttbl a =>
    if inRsqrtDomain a then none
    else
      match c.rsqrtOod with
      | .draw => none
      | .refuse =>
        match c.oodRefusedAt with
        | .issue => some (.rsqrtTableOutOfDomain a)
        | .complete => none
  | .sin _ => none
  | .cos _ => none

/-- Issue (10_state.md R27): a reserved op code is refused before any register is written (30_encoding.md R64), and so is
what a build that refuses at Issue refuses there (log 22); every other request is taken. In BUSY the host holds first
(60_exceptions.md R146). -/
def hostIssue (r : Request) (rest : List HostAction) (s : State) : Host.Outcome State Fault Refusal :=
  if s.phase = .busy then .next (s.hold .issueWhileBusy)
  else
    match decode r with
    | .ok i =>
      match refusalAtIssue s.cfg i with
      | none => .next ((s.dropAction rest).takeRequest (requestOp r) (requestOperand r))
      | some f => .refused f
    | .error e => .refused (refusalOf e)

/-- Read: the pair in DONE, a hold in BUSY, and in IDLE the fault that 10_state.md R30 and the table of 60_exceptions.md
R142 name ("a model faults the Read with `ReadBeforeResponse`"), since no later step would lift a hold. -/
def hostRead (rest : List HostAction) (s : State) : Host.Outcome State Fault Refusal :=
  match s.phase with
  | .done => .next ((s.dropAction rest).give (.response s.value s.iters))
  | .busy => .next (s.hold .readWhileBusy)
  | .idle => .fault .readBeforeResponse

/-- A look at PHASE, at any time (10_state.md R24, R32). -/
def hostObserve (rest : List HostAction) (s : State) : Host.Outcome State Fault Refusal :=
  .next ((s.dropAction rest).give (.phase s.status))

/-- The host's turn: its oldest action, if it has one (10_state.md R26). DESIGN CHOICE: a host under a hold stalls whole
(R28), so a look at PHASE behind the held action waits until the hold lifts, though R24 and R32 let a host look at any
time (log 21). -/
def hostTurn (s : State) : Host.Outcome State Fault Refusal :=
  match s.pending with
  | [] => .next s
  | .issue r :: rest => hostIssue r rest s
  | .read :: rest => hostRead rest s
  | .observe :: rest => hostObserve rest s

/-- Reset comes, at any time (70_reset_and_hazards.md R160, R161). -/
def resetTurn (s : State) : Host.Outcome State Fault Refusal := .next s.resetBlock

end Sys2Proof.Machine
end

