-- ==== Sys2Proof/Machine/Step.lean ====
section
/-! DEFINITION. One step of FPM-CORE and its host: the agent whose turn it is moves (10_state.md R26). -/

namespace Sys2Proof.Machine

/-- The block's turn: Complete of the request in flight, enabled in BUSY (10_state.md R29); otherwise the block has no
step to take and the turn passes (log 20). -/
def blockTurn (s : State) : Host.Outcome State Fault Refusal :=
  if s.phase = .busy then
    match requestInFlight s with
    | .ok i => exec i s
    | .error r => .refused r
  else .next s

/-- One step. An ill-formed configuration has no meaning (00_scope.md R8, 60_exceptions.md R142). -/
def step (s : State) : Host.Outcome State Fault Refusal :=
  if s.cfg.wf then
    match nextTurn s with
    | (.host, t) => hostTurn t
    | (.block, t) => blockTurn t
    | (.reset, t) => resetTurn t
  else .refused .illFormedConfig

/-- `s` with the request word `w` in flight and the block's turn next, so that the very next step runs it: what the
host's Issue leaves (10_state.md R27, log 15). -/
def State.withFetchWord (s : State) (_nbits w : Nat) : State :=
  { s with
    op := requestOp (BitVec.ofNat 36 w)
    a := requestOperand (BitVec.ofNat 36 w)
    phase := .busy
    turns := .block :: s.turns }

end Sys2Proof.Machine
end

