-- ==== Sys2Proof/Machine/Eval.lean ====
section
/-! DEFINITION. `Eval(op, a)` where it is deterministic (30_encoding.md R63): the answer of a request as a function of
the configuration and the request alone (00_scope.md R4). -/

namespace Sys2Proof.Machine

/-- The answer of a request; none for RSQRTTBL outside its domain, whose answer is drawn or refused
(43_rsqrt_table.md R119), and for a table read outside its table. -/
def eval (c : Config) : Instr → Option Answer
  | .log2floor a => some (log2FloorAnswer a)
  | .log2ceil a => some (log2CeilAnswer a)
  | .sqrt a => some (sqrtAnswer c a)
  | .rsqrt a => some (rsqrtAnswer c a)
  | .rsqrttbl a => if inRsqrtDomain a then rsqrtTblAnswer c a else none
  | .sin a => sinAnswer c a
  | .cos a => cosAnswer c a

end Sys2Proof.Machine
end

