-- ==== Sys2Proof/Safety.lean ====
section
/-! DEFINITION. What a run of FPM-CORE must keep and what a well-behaved host does, in the terms claims use
(10_state.md R25, R30, R32; 43_rsqrt_table.md R116). -/

namespace Sys2Proof.Machine

/-- VALUE and ITERS hold the response of `i`; for a drawn response the value is free and ITERS is 0
(10_state.md R31, 43_rsqrt_table.md R119). -/
def State.holdsResponse (s : State) (i : Instr) : Prop :=
  match eval s.cfg i with
  | some r => s.value = BitVec.ofInt 32 r.value ∧ s.iters = BitVec.ofNat 8 r.iters
  | none => s.iters = 0#8

/-- The bounds of the working registers (10_state.md R25). -/
structure Work.Bounded (w : Work) : Prop where
  /-- LOWER never exceeds `2^18`. -/
  lower_le : w.lower ≤ 2 ^ 18
  /-- UPPER never exceeds `2^18`. -/
  upper_le : w.upper ≤ 2 ^ 18
  /-- TOL never exceeds `2^18`. -/
  tol_le : w.tol ≤ 2 ^ 18
  /-- K never exceeds 255. -/
  k_le : w.k ≤ 255

/-- A request that ends in a response: all but RSQRTTBL outside its domain under `refuse`
(43_rsqrt_table.md R116, R119). -/
def requestResponds (c : Config) : Instr → Bool
  | .log2floor _ => true
  | .log2ceil _ => true
  | .sqrt _ => true
  | .rsqrt _ => true
  | .rsqrttbl a => inRsqrtDomain a || decide (c.rsqrtOod = .draw)
  | .sin _ => true
  | .cos _ => true

/-- A request of a defined op code that Issue takes outside BUSY: every one in a build that refuses at Complete
(10_state.md R27), every one that responds in a build that refuses at Issue (60_exceptions.md R147; log 22). -/
def requestTaken (c : Config) (i : Instr) : Bool :=
  requestResponds c i || decide (c.oodRefusedAt = .complete)

/-- The invariant of the request protocol. -/
structure State.Inv (s : State) : Prop where
  /-- A BUSY block holds a request that Issue takes (10_state.md R27; log 22). -/
  busy_taken : s.phase = .busy → ∃ i, requestInFlight s = .ok i ∧ requestTaken s.cfg i = true
  /-- A DONE block holds the response of the request in OP and A (10_state.md R29, R30). -/
  done_response : s.phase = .done → ∃ i, requestInFlight s = .ok i ∧ s.holdsResponse i
  /-- A host waits only while the block is BUSY (60_exceptions.md R142). -/
  held_busy : s.held ≠ none → s.phase = .busy
  /-- The working registers keep their bounds (10_state.md R25). -/
  work_bounded : s.work.Bounded

/-- An action a host may take: never a request that is refused (10_state.md R32, 43_rsqrt_table.md R116). -/
def actionLegal (c : Config) : HostAction → Bool
  | .issue r =>
    match decode r with
    | .ok i => requestResponds c i
    | .error _ => false
  | .read => true
  | .observe => true

/-- No Read comes before an Issue (10_state.md R32: not before the first Complete after reset). -/
def issuesBeforeReading : List HostAction → Bool
  | [] => true
  | .issue _ :: _ => true
  | .read :: _ => false
  | .observe :: rest => issuesBeforeReading rest

/-- A host that keeps the "host must" column of 10_state.md R32, on a block that is not reset meanwhile. -/
structure State.HostDisciplined (s : State) : Prop where
  /-- Every action still to come is legal. -/
  actions_legal : ∀ x ∈ s.pending, actionLegal s.cfg x = true
  /-- So was the request in flight. -/
  flight_responds : s.phase = .busy → ∀ i, requestInFlight s = .ok i → requestResponds s.cfg i = true
  /-- A block in IDLE is issued a request before it is read. -/
  idle_issues : s.phase = .idle → issuesBeforeReading s.pending = true
  /-- No reset comes. -/
  no_reset : Turn.reset ∉ s.turns

/-- A safe run: however long it goes on, it meets no fault and no refusal. -/
def State.Safe (s : State) : Prop :=
  ∀ k, ∃ t, Host.Core.run Sys2Proof.core k s = .next t

/-- The steps of a bisection whose seed is `[2^j, 2^(j+1)]` (41_sqrt.md R94). -/
def bisectSteps (tb maxIter j : Nat) : Nat :=
  if j < tb then min maxIter j
  else if j = tb then min maxIter (tb - 1)
  else min maxIter tb

/-- Where in a quarter turn an angle below `2^n` reads, counted from the nearer zero of the sine: rising quarters from
their start, falling quarters from their end (44_sincos.md R127). -/
def mirroredPosition (n ang : Nat) : Nat :=
  if ang % 2 ^ (n - 1) < 2 ^ (n - 2) then ang % 2 ^ (n - 1) else 2 ^ (n - 1) - ang % 2 ^ (n - 1)

end Sys2Proof.Machine
end

