-- ==== Sys2Proof/Certificates/Slice0/Obligations.lean ====
section
/-! DEFINITION. The statements about FPM-CORE for the provers. Rule numbers are those of spec/. -/

open Sys2Proof Sys2Proof.Machine

/-! ## Encoding -/

/-- One request word of each op code, written out from 30_encoding.md R60 and R62, and reserved ones (R64). -/
def Obligations.RequestWordsDecode : Prop :=
  decode 0x000012345#36 = .ok (.log2floor 0x00012345#32) ∧
  decode 0x101000001#36 = .ok (.log2ceil 0x01000001#32) ∧
  decode 0x201000000#36 = .ok (.sqrt 0x01000000#32) ∧
  decode 0x300012345#36 = .ok (.rsqrt 0x00012345#32) ∧
  decode 0x40048D140#36 = .ok (.rsqrttbl 0x0048D140#32) ∧
  decode 0x500000C00#36 = .ok (.sin 0x00000C00#32) ∧
  decode 0x6FFFFFFFF#36 = .ok (.cos 0xFFFFFFFF#32) ∧
  decode 0x700000000#36 = .error (.reservedOp 0x7#4) ∧
  decode 0xFFFFFFFFF#36 = .error (.reservedOp 0xF#4)

/-- Encoding and decoding agree in both directions, and a word that is no instruction is a reserved op code, named
(30_encoding.md R60 to R64). -/
def Obligations.DecodeEncodeAgree : Prop :=
  (∀ i : Instr, decode (encode i) = .ok i) ∧
  (∀ (r : Request) (i : Instr), decode r = .ok i → encode i = r) ∧
  (∀ r : Request, (∃ i, decode r = .ok i) ↔ (requestOp r).toNat ≤ 6) ∧
  (∀ r : Request, 7 ≤ (requestOp r).toNat → decode r = .error (.reservedOp (requestOp r)))

/-- The opcode table of 30_encoding.md R70 read as match and mask: a row matches a word exactly when the word decodes
to that row's operation, and no word is matched by two rows. -/
def Obligations.OpcodeRowsReadTheWord : Prop :=
  (∀ row ∈ opcodeRows, ∀ r : Request,
    row.matches r = true ↔ ∃ i : Instr, decode r = .ok i ∧ i.mnemonic = row.mnemonic) ∧
  (∀ row ∈ opcodeRows, ∀ row' ∈ opcodeRows, ∀ r : Request,
    row.matches r = true → row'.matches r = true → row = row')

/-- The host's numbering of a table word is the decoder of the request itself (30_encoding.md R60, R61). That the bit
count is ignored and that no number of `2^36` or more is read is the model's choice (log 16). -/
def Obligations.TableWordDecodes : Prop :=
  (∀ (n : Nat) (i : Instr), decodeTableWord n (encode i).toNat = some i) ∧
  (∀ n w : Nat, 2 ^ 36 ≤ w → decodeTableWord n w = none)

/-- A response word gives back VALUE and ITERS (30_encoding.md R60). -/
def Obligations.ResponseWordFields : Prop :=
  ∀ (v : Word) (k : IterCount), responseValue (responseOf v k) = v ∧ responseIters (responseOf v k) = k ∧
    (responseOf v k).toNat = v.toNat * 256 + k.toNat

/-! ## LOG2FLOOR and LOG2CEIL -/

/-- LOG2_TABLE has 256 entries, −1 first and `floor(log2 b)` from 1 on, each a signed byte (20_memory.md R41). -/
def Obligations.Log2TableEntries : Prop :=
  log2Table.length = 256 ∧ readTable log2Table 0 = some (-1) ∧
    ∀ b, 1 ≤ b → b ≤ 255 → readTable log2Table b = some ((Nat.log 2 b : Nat) : Int) ∧ Nat.log 2 b < 128

/-- 40_log2.md R84: LOG2FLOOR gives the position of the highest set bit, LOG2CEIL the ceiling of the logarithm, and
both give −1 at 0. -/
def Obligations.Log2Exactness : Prop :=
  ∀ (a : Word) (s : State),
    (∃ t, exec (.log2floor a) s = .next t ∧ t.phase = .done ∧ t.iters = 0#8 ∧
      (a = 0#32 → t.value = 0xFFFFFFFF#32) ∧
      (a ≠ 0#32 → t.value = BitVec.ofNat 32 (Nat.log 2 a.toNat) ∧ a.getLsbD t.value.toNat = true ∧
        ∀ k, t.value.toNat < k → a.getLsbD k = false)) ∧
    (∃ t, exec (.log2ceil a) s = .next t ∧ t.phase = .done ∧ t.iters = 0#8 ∧
      (a = 0#32 → t.value = 0xFFFFFFFF#32) ∧
      (a ≠ 0#32 → t.value = BitVec.ofNat 32 (Nat.clog 2 a.toNat)))

/-- 40_log2.md R85: from 1 on the two give the same value exactly at the powers of two, and at 0 both give −1. -/
def Obligations.Log2AgreeAtPowersOfTwo : Prop :=
  ∀ (a : Word) (s : State), ∃ t u, exec (.log2floor a) s = .next t ∧ exec (.log2ceil a) s = .next u ∧
    (a ≠ 0#32 → (t.value = u.value ↔ ∃ k, a.toNat = 2 ^ k)) ∧
    (a = 0#32 → t.value.toInt = -1 ∧ u.value.toInt = -1)

/-! ## Bisect and SQRT -/

/-- 41_sqrt.md R94: how many steps Bisect takes from a seed `[2^j, 2^(j+1)]`, and that each halves the width, whatever
the comparison says. -/
def Obligations.BisectStepCount : Prop :=
  (∀ (j tb maxIter : Nat) (tooBig : Nat → Bool),
    (bisect (2 ^ j) (2 * 2 ^ j) tb maxIter tooBig).k = bisectSteps tb maxIter j ∧
    (bisect (2 ^ j) (2 * 2 ^ j) tb maxIter tooBig).upper =
      (bisect (2 ^ j) (2 * 2 ^ j) tb maxIter tooBig).lower + 2 ^ (j - bisectSteps tb maxIter j)) ∧
  (∀ j, bisectSteps 6 10 j ≤ 6)

/-- 41_sqrt.md R92: the seed bracket of SQRT holds the root. -/
def Obligations.SqrtSeedHoldsTheRoot : Prop :=
  ∀ a : Word, a ≠ 0#32 →
    (sqrtSeedLower a : ℝ) ≤ Real.sqrt a.toNat ∧ Real.sqrt a.toNat < (2 * sqrtSeedLower a : ℕ) ∧
    sqrtSeedLower a ≤ 2 ^ 15 ∧ 2 * sqrtSeedLower a ≤ 2 ^ 16

/-- 41_sqrt.md R93: at the start and after every step of SQRT's bisection `LOWER * LOWER ≤ a < UPPER * UPPER`, and the
response lies in the final bracket, from 1 to 65535. -/
def Obligations.SqrtBracketHoldsTheRoot : Prop :=
  ∀ (a : Word) (s : State), a ≠ 0#32 →
    (∀ n w, w = bisectLoop s.cfg.sqrtMaxIterations (sqrtTooBig a) n
        (bisectSeed (sqrtSeedLower a) (2 * sqrtSeedLower a) s.cfg.sqrtToleranceBits) →
      w.lower * w.lower ≤ a.toNat ∧ a.toNat < w.upper * w.upper) ∧
    ∃ t, exec (.sqrt a) s = .next t ∧
      (sqrtWork s.cfg a).lower ≤ t.value.toNat ∧ t.value.toNat < (sqrtWork s.cfg a).upper ∧
      1 ≤ t.value.toNat ∧ t.value.toNat ≤ 65535

/-- 41_sqrt.md R95: every guess SQRT tests lies strictly inside the bracket and its square is exact in 32-bit unsigned
arithmetic, as is the sum of the bounds. -/
def Obligations.SqrtProductsFit32Bits : Prop :=
  ∀ (a : Word) (c : Config) (n : Nat) (w : Work), a ≠ 0#32 →
    w = bisectLoop c.sqrtMaxIterations (sqrtTooBig a) n
      (bisectSeed (sqrtSeedLower a) (2 * sqrtSeedLower a) c.sqrtToleranceBits) →
    bisectGoing c.sqrtMaxIterations w = true →
    2 ≤ w.upper - w.lower ∧ w.lower < bracketMid w ∧ bracketMid w < w.upper ∧ w.upper ≤ 2 ^ 16 ∧ w.lower + w.upper < 2 ^ 17 ∧
    (BitVec.ofNat 32 (bracketMid w) * BitVec.ofNat 32 (bracketMid w)).toNat = bracketMid w * bracketMid w

/-- What SQRT answers, in closed form (41_sqrt.md R91, R93, R94): with `j = floor(log2(a)/2)` and `k` steps the final
bracket is the stretch of width `2^(j−k)` that holds the integer square root, and the response is its middle. -/
def Obligations.SqrtClosedForm : Prop :=
  ∀ (a : Word) (s : State), ∃ t, exec (.sqrt a) s = .next t ∧ t.phase = .done ∧
    (a = 0#32 → t.value = 0#32 ∧ t.iters = 0#8) ∧
    (a ≠ 0#32 → ∀ j k w, j = Nat.log 2 a.toNat / 2 →
      k = bisectSteps s.cfg.sqrtToleranceBits s.cfg.sqrtMaxIterations j → w = 2 ^ (j - k) →
      t.value = BitVec.ofNat 32 (Nat.sqrt a.toNat / w * w + w / 2) ∧ t.iters = BitVec.ofNat 8 k)

/-- The accuracy of SQRT with the default parameters: within `ceil(1 + r/100)` of the rounded root `r`, the reading of
the source's bound that 91_not_in_source.md gives (41_sqrt.md R96: a statement about R91, no rule of its own). -/
def Obligations.SqrtAccuracy : Prop :=
  ∀ (a : Word) (s : State), a ≠ 0#32 → s.cfg.sqrtToleranceBits = 6 → s.cfg.sqrtMaxIterations = 10 →
    ∃ t, exec (.sqrt a) s = .next t ∧
      |(t.value.toNat : ℤ) - round (Real.sqrt a.toNat)| ≤ ⌈(1 + (round (Real.sqrt a.toNat) : ℝ) / 100)⌉

/-! ## RSQRT -/

/-- 42_rsqrt.md R109: RSQRT 0 answers the sentinel with no step. -/
def Obligations.RsqrtZeroSentinel : Prop :=
  ∀ s : State, ∃ t, exec (.rsqrt 0#32) s = .next t ∧ t.phase = .done ∧ t.value = 0xFFFFFFFF#32 ∧ t.iters = 0#8

/-- 42_rsqrt.md R103: the steps of RSQRT with the default parameters, by `n = Log2Floor(a)`. -/
def Obligations.RsqrtStepCount : Prop :=
  ∀ (a : Word) (s : State) (n : Nat), a ≠ 0#32 → n = Nat.log 2 a.toNat →
    rsqrtSeedUpper n - rsqrtSeedLower n = 2 ^ ((35 - n) / 2) ∧
    (rsqrtWork s.cfg a).k = bisectSteps s.cfg.rsqrtToleranceBits s.cfg.rsqrtMaxIterations ((35 - n) / 2) ∧
    (s.cfg.rsqrtToleranceBits = 6 → s.cfg.rsqrtMaxIterations = 10 → ∃ t, exec (.rsqrt a) s = .next t ∧
      (n ≤ 21 → 7 ≤ (35 - n) / 2 ∧ t.iters = 6#8) ∧
      (n = 22 ∨ n = 23 → (35 - n) / 2 = 6 ∧ t.iters = 5#8) ∧
      (24 ≤ n → (35 - n) / 2 < 6 ∧ t.iters.toNat = (35 - n) / 2))

/-- 42_rsqrt.md R101, R102: the seed bracket of RSQRT is `[2^M, 2^(M+1)]` with `M` from 2 to 17, and holds the target
`2^18 / sqrt(a)`. -/
def Obligations.RsqrtSeedHoldsTheTarget : Prop :=
  ∀ (a : Word) (n : Nat), a ≠ 0#32 → n = Nat.log 2 a.toNat →
    rsqrtSeedLower n = 2 ^ ((35 - n) / 2) ∧ rsqrtSeedUpper n = 2 * rsqrtSeedLower n ∧
    2 ≤ (35 - n) / 2 ∧ (35 - n) / 2 ≤ 17 ∧
    (rsqrtSeedLower n : ℝ) ≤ 2 ^ 18 / Real.sqrt a.toNat ∧ 2 ^ 18 / Real.sqrt a.toNat ≤ (rsqrtSeedUpper n : ℝ)

/-- What RSQRT answers for `a ≥ 1` (42_rsqrt.md R101, R104, R105, R108): the middle of the stretch `[l, l + w]` of the
seed's subdivision whose lower end is not too big and whose upper end is, unless they are the seed's own. -/
def Obligations.RsqrtResult : Prop :=
  ∀ (a : Word) (s : State) (n m k w : Nat), a ≠ 0#32 → n = Nat.log 2 a.toNat → m = (35 - n) / 2 →
    k = bisectSteps s.cfg.rsqrtToleranceBits s.cfg.rsqrtMaxIterations m → w = 2 ^ (m - k) →
    ∀ p : Nat → Nat,
    (∀ g, p g = if 13 ≤ n then g * g * (a.toNat / 64) else g / 8 * (g / 8) * a.toNat) →
    ∃ t l, exec (.rsqrt a) s = .next t ∧ t.phase = .done ∧
      2 ^ m ≤ l ∧ l + w ≤ 2 * 2 ^ m ∧ w ∣ l ∧
      (l = 2 ^ m ∨ p l ≤ 2 ^ 30) ∧ (l + w = 2 * 2 ^ m ∨ 2 ^ 30 < p (l + w)) ∧
      t.value = BitVec.ofNat 32 (l + w / 2) ∧ t.iters = BitVec.ofNat 8 k

/-- 42_rsqrt.md R106: every product RSQRT forms of a guess it tests is exact in 32-bit unsigned arithmetic. -/
def Obligations.RsqrtProductsFit32Bits : Prop :=
  ∀ (a : Word) (c : Config) (j n : Nat) (w : Work), a ≠ 0#32 → n = Nat.log 2 a.toNat →
    w = bisectLoop c.rsqrtMaxIterations (rsqrtTooBig a) j
      (bisectSeed (rsqrtSeedLower n) (rsqrtSeedUpper n) c.rsqrtToleranceBits) →
    bisectGoing c.rsqrtMaxIterations w = true →
    bracketMid w + 1 ≤ rsqrtSeedUpper n ∧ rsqrtProduct n a.toNat (bracketMid w) < 2 ^ 32 ∧
    (13 ≤ n → bracketMid w * bracketMid w < 2 ^ 32) ∧ (n < 13 → bracketMid w / 8 * (bracketMid w / 8) < 2 ^ 32)

/-- 42_rsqrt.md R108: the bracket of RSQRT need not hold the target in the high regime. For 10809 with the default
parameters it ends as `[2528, 2560]`, above `2^18 / sqrt(10809)`. -/
def Obligations.RsqrtBracketMayMissTheTarget : Prop :=
  ∀ c : Config, c.rsqrtToleranceBits = 6 → c.rsqrtMaxIterations = 10 →
    (rsqrtWork c 10809#32).lower = 2528 ∧ (rsqrtWork c 10809#32).upper = 2560 ∧
    (2 : ℝ) ^ 18 / Real.sqrt 10809 < 2528

/-! ## Lerp and RSQRTTBL -/

/-- The ends of the blend (43_rsqrt_table.md R115): fraction 0 gives the first entry under either division, and the
full fraction gives the second but for truncation of a falling pair, where it gives one more. -/
def Obligations.LerpEnds : Prop :=
  ∀ (t0 t1 : Int) (b : Nat) (d : InterpDiv),
    lerp d t0 t1 0 (2 ^ b) = t0 ∧
    lerp .fdiv t0 t1 (2 ^ b) (2 ^ b) = t1 ∧
    (t0 ≤ t1 ∨ b = 0 → lerp .tdiv t0 t1 (2 ^ b) (2 ^ b) = t1) ∧
    (t1 < t0 → 1 ≤ b → lerp .tdiv t0 t1 (2 ^ b) (2 ^ b) = t1 + 1) ∧
    (t0 ≤ t1 → ∀ f, lerp .tdiv t0 t1 f (2 ^ b) = lerp .fdiv t0 t1 f (2 ^ b))

/-- 43_rsqrt_table.md R120: under the default split every in-domain operand reads inside the table. -/
def Obligations.RsqrtTblIndexBounds : Prop :=
  ∀ (c : Config) (a : Word), c.rsqrtTableSplit = .default → 2 ≤ c.rsqrtTableBits → c.rsqrtTableBits ≤ 24 →
    2 ^ 22 ≤ a.toNat → a.toNat < 2 ^ 24 → ∃ p, rsqrtSplit c a = some p ∧
      p.idx ≤ 3 * 2 ^ (c.rsqrtTableBits - 2) - 1 ∧ p.idx + 1 ≤ 3 * 2 ^ (c.rsqrtTableBits - 2) ∧
      3 * 2 ^ (c.rsqrtTableBits - 2) ≤ 2 ^ c.rsqrtTableBits ∧
      (c.rsqrtTable.length = 2 ^ c.rsqrtTableBits + 1 →
        p.idx < c.rsqrtTable.length ∧ p.idx + 1 < c.rsqrtTable.length)

/-- RSQRTTBL in its domain under the default split (43_rsqrt_table.md R115, R117, R118): it completes with the blend of
the two entries around the operand, ITERS 0. -/
def Obligations.RsqrtTblResult : Prop :=
  ∀ (a : Word) (s : State) (fb d : Nat), s.cfg.wf = true → s.cfg.rsqrtTableSplit = .default →
    a.toNat = 2 ^ 22 + d → a.toNat < 2 ^ 24 → fb = 24 - s.cfg.rsqrtTableBits →
    ∃ t t0 t1, exec (.rsqrttbl a) s = .next t ∧ t.phase = .done ∧ t.iters = 0#8 ∧
      s.cfg.rsqrtTable[d / 2 ^ fb]? = some t0 ∧ s.cfg.rsqrtTable[d / 2 ^ fb + 1]? = some t1 ∧
      (s.cfg.interpDiv = .tdiv → (t.value.toNat : Int) = t0.toNat +
        Int.tdiv (((t1.toNat : Int) - t0.toNat) * (d % 2 ^ fb : Nat) + (2 ^ fb / 2 : Nat)) (2 ^ fb : Nat)) ∧
      (s.cfg.interpDiv = .fdiv → (t.value.toNat : Int) = t0.toNat +
        Int.fdiv (((t1.toNat : Int) - t0.toNat) * (d % 2 ^ fb : Nat) + (2 ^ fb / 2 : Nat)) (2 ^ fb : Nat))

/-- RSQRTTBL in its domain under every split: it completes with the blend, by the build's division, of the two entries
at the point the split gives, ITERS 0 (43_rsqrt_table.md R115, R118). Where a stretch of a split other than the default
reads is the model's choice (log 12), and so is that a well-formed one covers the domain and stays inside the table
(log 13). -/
def Obligations.RsqrtTblBlendsAtTheSplitPoint : Prop :=
  ∀ (a : Word) (s : State), s.cfg.wf = true → 2 ^ 22 ≤ a.toNat → a.toNat < 2 ^ 24 →
    (∃ t p t0 t1, exec (.rsqrttbl a) s = .next t ∧ t.phase = .done ∧ t.iters = 0#8 ∧
      rsqrtSplit s.cfg a = some p ∧ s.cfg.rsqrtTable[p.idx]? = some t0 ∧ s.cfg.rsqrtTable[p.idx + 1]? = some t1 ∧
      (t.value.toNat : Int) = lerp s.cfg.interpDiv t0.toNat t1.toNat p.frac p.m) ∧
    (∀ (before after : List SplitRegion) (r : SplitRegion) (k : Nat),
      s.cfg.rsqrtTableSplit = .regions (before ++ r :: after) →
      a.toNat = 2 ^ 22 + (before.map SplitRegion.size).sum + k → k < r.size →
      rsqrtSplit s.cfg a = some ⟨(r.start + k) / 2 ^ r.fracBits, (r.start + k) % 2 ^ r.fracBits, 2 ^ r.fracBits⟩)

/-- In its domain RSQRTTBL completes with a value between the two entries it reads, under either division
(43_rsqrt_table.md R121). R121 is about the default split's points; for another split, that the fraction stays below the
denominator is the model's choice (log 12), and so is that both reads are inside the table (log 13). -/
def Obligations.RsqrtTblBetweenNeighbours : Prop :=
  ∀ (a : Word) (s : State), s.cfg.wf = true → 2 ^ 22 ≤ a.toNat → a.toNat < 2 ^ 24 →
    ∃ t p t0 t1, exec (.rsqrttbl a) s = .next t ∧ t.phase = .done ∧ t.iters = 0#8 ∧
      rsqrtSplit s.cfg a = some p ∧ p.frac < p.m ∧
      s.cfg.rsqrtTable[p.idx]? = some t0 ∧ s.cfg.rsqrtTable[p.idx + 1]? = some t1 ∧
      min t0.toNat t1.toNat ≤ t.value.toNat ∧ t.value.toNat ≤ max t0.toNat t1.toNat ∧
      t.value.toNat ≤ 65535 ∧ 0 ≤ t.value.toInt

/-- RSQRTTBL outside its domain (43_rsqrt_table.md R119): under `draw` it completes with ITERS 0 and whatever value;
under `refuse` it is refused by name. A build that refuses at Issue never brings it to Complete (log 22). -/
def Obligations.RsqrtTblOutOfDomain : Prop :=
  ∀ (a : Word) (s : State), a.toNat < 2 ^ 22 ∨ 2 ^ 24 ≤ a.toNat →
    (s.cfg.rsqrtOod = .draw → ∃ t, exec (.rsqrttbl a) s = .next t ∧ t.phase = .done ∧ t.iters = 0#8 ∧
      t.op = s.op ∧ t.a = s.a ∧ t.held = none ∧ t.cfg = s.cfg) ∧
    (s.cfg.rsqrtOod = .refuse → exec (.rsqrttbl a) s = .refused (.rsqrtTableOutOfDomain a))

/-! ## SIN and COS -/

/-- 44_sincos.md R128: SIN reads inside the table in both branches, and its fraction is one Lerp takes. The reflected
index `r` and the inverted fraction are differences of integers, neither below 0. -/
def Obligations.SinIndexBounds : Prop :=
  ∀ (c : Config) (ang i f : Nat), c.wf = true → ang < 2 ^ c.angleBits → i = (angleFields c ang).i →
    f = (angleFields c ang).f →
    ((angleFields c ang).q = 0 ∨ (angleFields c ang).q = 1) ∧
    ((angleFields c ang).q = 0 → i ≤ 2 ^ c.sinTableBits - 1 ∧ i + 1 ≤ 2 ^ c.sinTableBits ∧
      f ≤ 2 ^ sinFracBits c ∧ sinPoint c (angleFields c ang) = ⟨i, f, 2 ^ sinFracBits c⟩) ∧
    ((angleFields c ang).q = 1 → i ≤ 2 ^ c.sinTableBits - 1 ∧ f ≤ 2 ^ sinFracBits c ∧
      ∃ r g : Nat, (r : Int) = 2 ^ c.sinTableBits - 1 - (i : Int) ∧ (g : Int) = 2 ^ sinFracBits c - (f : Int) ∧
        r + 1 ≤ 2 ^ c.sinTableBits ∧ g ≤ 2 ^ sinFracBits c ∧
        sinPoint c (angleFields c ang) = ⟨r, g, 2 ^ sinFracBits c⟩) ∧
    (sinPoint c (angleFields c ang)).idx < c.sinTable.length ∧
    (sinPoint c (angleFields c ang)).idx + 1 < c.sinTable.length

/-- SIN completes, with the signed blend of 44_sincos.md R127 at the fields of R126, under every well-formed
configuration. -/
def Obligations.SinResult : Prop :=
  ∀ (a : Word) (s : State) (fb ang h q i f x fr : Nat), s.cfg.wf = true →
    fb = s.cfg.angleBits - 2 - s.cfg.sinTableBits → ang = a.toNat % 2 ^ s.cfg.angleBits →
    h = ang / 2 ^ (s.cfg.angleBits - 1) → q = ang / 2 ^ (s.cfg.angleBits - 2) % 2 →
    i = ang / 2 ^ fb % 2 ^ s.cfg.sinTableBits → f = ang % 2 ^ fb →
    x = (if q = 0 then i else 2 ^ s.cfg.sinTableBits - 1 - i) → fr = (if q = 0 then f else 2 ^ fb - f) →
    ∃ t t0 t1, exec (.sin a) s = .next t ∧ t.phase = .done ∧ t.iters = 0#8 ∧
      s.cfg.sinTable[x]? = some t0 ∧ s.cfg.sinTable[x + 1]? = some t1 ∧
      t.value.toInt = (if h = 1 then -1 else 1) * lerp s.cfg.interpDiv t0.toNat t1.toNat fr (2 ^ fb)

/-- SIN as a whole (44_sincos.md R127, R132, R135): with a non-decreasing table it is the sign of the half turn times
the rounded blend at the mirrored position, whichever division the build has. -/
def Obligations.SinIsMirroredInterpolation : Prop :=
  ∀ (a : Word) (s : State) (fb ang pos : Nat), s.cfg.wf = true → s.cfg.sinTableRises →
    fb = s.cfg.angleBits - 2 - s.cfg.sinTableBits → ang = a.toNat % 2 ^ s.cfg.angleBits →
    pos = mirroredPosition s.cfg.angleBits ang →
    ∃ t t0, exec (.sin a) s = .next t ∧ s.cfg.sinTable[pos / 2 ^ fb]? = some t0 ∧
      ∀ t1 : Nat, t1 = ((s.cfg.sinTable[pos / 2 ^ fb + 1]?).getD t0).toNat →
      t.value.toInt = (if 2 ^ (s.cfg.angleBits - 1) ≤ ang then -1 else 1) *
        ((t0.toNat + ((t1 - t0.toNat) * (pos % 2 ^ fb) + 2 ^ fb / 2) / 2 ^ fb : Nat) : Int)

/-- 44_sincos.md R131: the quadrant points are exact. -/
def Obligations.SinQuadrantPoints : Prop :=
  ∀ (s : State) (n : Nat), s.cfg.wf = true → s.cfg.sinTableRises → n = s.cfg.angleBits →
    (∃ t, exec (.sin 0#32) s = .next t ∧ t.value.toInt = 0) ∧
    (∃ t, exec (.sin (BitVec.ofNat 32 (2 ^ (n - 2)))) s = .next t ∧ t.value.toInt = 4096) ∧
    (∃ t, exec (.sin (BitVec.ofNat 32 (2 ^ (n - 1)))) s = .next t ∧ t.value.toInt = 0) ∧
    (∃ t, exec (.sin (BitVec.ofNat 32 (3 * 2 ^ (n - 2)))) s = .next t ∧ t.value.toInt = -4096)

/-- 44_sincos.md R130, R125: SIN reads only the angle `a[N−1:0]`, so it has the period of a full turn. -/
def Obligations.SinPeriodic : Prop :=
  ∀ (a b : Word) (s : State), s.cfg.wf = true →
    (∃ t u, exec (.sin a) s = .next t ∧ exec (.sin (a + BitVec.ofNat 32 (2 ^ s.cfg.angleBits))) s = .next u ∧
      t.value = u.value ∧ t.iters = u.iters) ∧
    (a.toNat % 2 ^ s.cfg.angleBits = b.toNat % 2 ^ s.cfg.angleBits →
      (∃ t u, exec (.sin a) s = .next t ∧ exec (.sin b) s = .next u ∧ t.value = u.value ∧ t.iters = u.iters) ∧
      ∃ t u, exec (.cos a) s = .next t ∧ exec (.cos b) s = .next u ∧ t.value = u.value ∧ t.iters = u.iters)

/-- 44_sincos.md R132: SIN is odd, exactly, and COS is SIN a quarter turn ahead. -/
def Obligations.SinOddSymmetry : Prop :=
  ∀ (a : Word) (s : State), s.cfg.wf = true → s.cfg.sinTableRises →
    (∃ t u, exec (.sin a) s = .next t ∧ exec (.sin (-a)) s = .next u ∧ u.value.toInt = -t.value.toInt) ∧
    (∃ t u, exec (.cos a) s = .next t ∧
      exec (.sin (a + BitVec.ofNat 32 (2 ^ (s.cfg.angleBits - 2)))) s = .next u ∧ t.value = u.value)

/-- 44_sincos.md R133: every SIN and COS result is in `[−4096, 4096]`. -/
def Obligations.SinCosRange : Prop :=
  ∀ (a : Word) (s : State), s.cfg.wf = true → s.cfg.sinTableRises →
    (∃ t, exec (.sin a) s = .next t ∧ -4096 ≤ t.value.toInt ∧ t.value.toInt ≤ 4096) ∧
    (∃ t, exec (.cos a) s = .next t ∧ -4096 ≤ t.value.toInt ∧ t.value.toInt ≤ 4096)

/-- COS completes with the response of SIN at `(a[N−1:0] + 2^(N−2)) mod 2^N`, under every well-formed configuration
(44_sincos.md R129). -/
def Obligations.CosResult : Prop :=
  ∀ (a b : Word) (s : State), s.cfg.wf = true →
    b.toNat = (a.toNat % 2 ^ s.cfg.angleBits + 2 ^ (s.cfg.angleBits - 2)) % 2 ^ s.cfg.angleBits →
    ∃ t u, exec (.cos a) s = .next t ∧ exec (.sin b) s = .next u ∧ t.phase = .done ∧ t.iters = 0#8 ∧
      t.value = u.value

/-! ## Every request -/

/-- 60_exceptions.md R141: the fixed responses to the special inputs; none of them is a stop. -/
def Obligations.SpecialInputsAnswerSentinels : Prop :=
  ∀ s : State, ∃ t u v w, exec (.log2floor 0#32) s = .next t ∧ t.value = 0xFFFFFFFF#32 ∧ t.iters = 0#8 ∧
    t.value.toInt = -1 ∧
    exec (.log2ceil 0#32) s = .next u ∧ u.value = 0xFFFFFFFF#32 ∧ u.iters = 0#8 ∧ u.value.toInt = -1 ∧
    exec (.sqrt 0#32) s = .next v ∧ v.value = 0#32 ∧ v.iters = 0#8 ∧
    exec (.rsqrt 0#32) s = .next w ∧ w.value = 0xFFFFFFFF#32 ∧ w.iters = 0#8

/-- What Complete leaves alone, for every operation (10_state.md R29, R31; 20_memory.md R44): OP, A, the configuration
and the tables, and the host's side. PHASE becomes DONE and a hold is lifted; only VALUE, ITERS and the unspecified
working registers may change besides. -/
def Obligations.CompleteFrame : Prop :=
  ∀ (i : Instr) (s t : State), exec i s = .next t →
    t.op = s.op ∧ t.a = s.a ∧ t.cfg = s.cfg ∧ t.pending = s.pending ∧ t.turns = s.turns ∧ t.replies = s.replies ∧
    t.phase = .done ∧ t.held = none ∧
    (∀ k, readTable t.cfg.sinTable k = readTable s.cfg.sinTable k) ∧
    (∀ k, readTable t.cfg.rsqrtTable k = readTable s.cfg.rsqrtTable k)

/-- 10_state.md R31: the answer of every request fits its registers, and Respond stores it: VALUE modulo `2^32`, ITERS
as it is. -/
def Obligations.RespondStoresTheAnswer : Prop :=
  ∀ (i : Instr) (s : State) (r : Answer), s.cfg.wf = true → eval s.cfg i = some r →
    -2 ^ 31 ≤ r.value ∧ r.value ≤ 2 ^ 32 - 1 ∧ r.iters ≤ 255 ∧
    ∃ t, exec i s = .next t ∧ (t.value.toNat : Int) = r.value % 2 ^ 32 ∧ t.iters.toNat = r.iters

/-- 70_reset_and_hazards.md R170: one configuration and one request give one response, whatever came before, but for
RSQRTTBL outside its domain. -/
def Obligations.SameRequestSameResponse : Prop :=
  ∀ (i : Instr) (s s' t t' : State), s.cfg = s'.cfg → exec i s = .next t → exec i s' = .next t' →
    (∀ a, i = .rsqrttbl a → 2 ^ 22 ≤ a.toNat ∧ a.toNat < 2 ^ 24) →
    t.value = t'.value ∧ t.iters = t'.iters

/-- 70_reset_and_hazards.md R172: how many bisection steps a request performs. Each completes, RSQRTTBL where it is
answered at all. -/
def Obligations.StepsPerRequest : Prop :=
  ∀ (a : Word) (s : State), s.cfg.wf = true →
    (∀ i, i ∈ [Instr.log2floor a, .log2ceil a, .rsqrttbl a, .sin a, .cos a] → requestResponds s.cfg i = true →
      ∃ t, exec i s = .next t ∧ t.iters = 0#8) ∧
    (∃ t, exec (.sqrt a) s = .next t ∧ t.iters.toNat ≤ min s.cfg.sqrtMaxIterations s.cfg.sqrtToleranceBits ∧
      (s.cfg.sqrtMaxIterations = 10 → s.cfg.sqrtToleranceBits = 6 → t.iters.toNat ≤ 6)) ∧
    (∃ t, exec (.rsqrt a) s = .next t ∧ t.iters.toNat ≤ min s.cfg.rsqrtMaxIterations s.cfg.rsqrtToleranceBits ∧
      (s.cfg.rsqrtMaxIterations = 10 → s.cfg.rsqrtToleranceBits = 6 → t.iters.toNat ≤ 6))

/-! ## Configuration -/

/-- What a well-formed configuration is, and that any other is refused (00_scope.md R8). That a split other than the
default must read inside the table besides, so that the last clause refuses a configuration for its split alone, is the
model's choice (log 13). -/
def Obligations.WellFormedConfigurations : Prop :=
  (∀ c : Config, c.rsqrtTableSplit = .default → (c.wf = true ↔
    (4 ≤ c.angleBits ∧ c.angleBits ≤ 32) ∧ c.sinTableBits ≤ c.angleBits - 2 ∧
    (2 ≤ c.rsqrtTableBits ∧ c.rsqrtTableBits ≤ 24) ∧
    (c.sqrtToleranceBits ≤ 31 ∧ c.rsqrtToleranceBits ≤ 31) ∧
    (c.sqrtMaxIterations ≤ 255 ∧ c.rsqrtMaxIterations ≤ 255) ∧
    (c.sinTable.length = 2 ^ c.sinTableBits + 1 ∧ c.sinTable[0]? = some 0#16 ∧
      c.sinTable[2 ^ c.sinTableBits]? = some 4096#16) ∧
    c.rsqrtTable.length = 2 ^ c.rsqrtTableBits + 1)) ∧
  (∀ c : Config, c.wf = true → ({ c with rsqrtTableSplit := .default } : Config).wf = true) ∧
  (∀ s : State, s.cfg.wf = false → step s = .refused .illFormedConfig)

/-- The build State.reset stands for is well formed and its tables keep what 20_memory.md R42 and R43 promise, whatever
the free samples are (the model's choice of a build: log 3, log 4). -/
def Obligations.BuildMeetsTheTableRules : Prop :=
  Config.build.wf = true ∧ Config.build.sinTableRises ∧ Config.build.rsqrtTableMonotone

/-- 70_reset_and_hazards.md R166: no request, host action or reset changes the configuration or the tables. -/
def Obligations.ConfigurationIsFixed : Prop :=
  ∀ s t : State, step s = .next t → t.cfg = s.cfg

/-! ## The protocol -/

/-- A step runs the decoded instruction (10_state.md R29): on the block's turn in BUSY the step is Complete of the
request OP and A hold. That the block moves when its turn is listed, and in BUSY when none is, is the model's choice
(log 8). -/
def Obligations.StepRunsTheRequest : Prop :=
  ∀ (s : State) (i : Instr), s.cfg.wf = true → s.phase = .busy → decode (requestOf s.op s.a) = .ok i →
    (∀ ts, s.turns = .block :: ts → step s = exec i { s with turns := ts }) ∧
    (s.turns = [] → step s = exec i s)

/-- The state the host places a word in runs it next. That `withFetchWord` stands for the Issue of the word with the
block's turn next is the model's choice (log 15); that the step is then Complete of it is 10_state.md R29. -/
def Obligations.FetchedWordRuns : Prop :=
  ∀ (s : State) (i : Instr) (n : Nat), s.cfg.wf = true → ∃ t : State,
    step (s.withFetchWord n (encode i).toNat) = exec i t ∧
    t.op = i.opcode ∧ t.a = i.operand ∧ t.phase = .busy ∧ t.cfg = s.cfg ∧ t.turns = s.turns ∧
    t.pending = s.pending ∧ t.draws = s.draws ∧ t.value = s.value ∧ t.iters = s.iters ∧ t.work = s.work ∧
    t.held = s.held ∧ t.replies = s.replies

/-- Issue outside BUSY (10_state.md R27). A reserved code is refused; any other request is written to OP and A with PHASE
BUSY, VALUE and ITERS keep their contents, and a Read after it holds. In a build that refuses at Issue what `refuse`
refuses (the model's parameter for 60_exceptions.md R147 against R27: log 22), RSQRTTBL outside its domain is refused at
this step, before any register is written; in any other build it is taken as R27 says. The host's turn is one that is
listed, or none listed (log 8). -/
def Obligations.IssueEffect : Prop :=
  ∀ (s : State) (r : Request) (rest : List HostAction), s.cfg.wf = true → s.phase ≠ .busy →
    (nextTurn s).1 = .host → s.pending = .issue r :: rest →
    (7 ≤ (requestOp r).toNat → step s = .refused (.reservedOp (requestOp r))) ∧
    (∀ a, decode r = .ok (.rsqrttbl a) → a.toNat < 2 ^ 22 ∨ 2 ^ 24 ≤ a.toNat → s.cfg.rsqrtOod = .refuse →
      s.cfg.oodRefusedAt = .issue → step s = .refused (.rsqrtTableOutOfDomain a)) ∧
    (∀ i, decode r = .ok i → requestResponds s.cfg i = true ∨ s.cfg.oodRefusedAt = .complete → ∃ t, step s = .next t ∧
      t.op = requestOp r ∧ t.a = requestOperand r ∧ t.phase = .busy ∧
      t.value = s.value ∧ t.iters = s.iters ∧ t.work = s.work ∧ t.cfg = s.cfg ∧ t.held = s.held ∧
      t.draws = s.draws ∧ t.pending = rest ∧ t.turns = s.turns.tail ∧ t.replies = s.replies ∧
      (∀ rest', (nextTurn t).1 = .host → rest = .read :: rest' → ∃ u, step t = .next u ∧
        u.held = some .readWhileBusy ∧ u.replies = t.replies ∧ u.pending = t.pending))

/-- 10_state.md R28: an Issue in BUSY holds and changes nothing; the request is neither lost nor queued in the block;
Complete lifts the hold, and then the request is issued. ReservedIssueHoldsFirst speaks of the requests that are refused
then. -/
def Obligations.IssueHoldsWhileBusy : Prop :=
  ∀ (s : State) (ts : List Turn) (r : Request) (rest : List HostAction) (i j : Instr), s.cfg.wf = true →
    s.phase = .busy → s.pending = .issue r :: rest → decode (requestOf s.op s.a) = .ok i →
    requestResponds s.cfg i = true → s.turns = .host :: .block :: .host :: ts →
    decode r = .ok j → requestResponds s.cfg j = true ∨ s.cfg.oodRefusedAt = .complete →
    ∃ t u v, step s = .next t ∧ t = { s with held := some .issueWhileBusy, turns := .block :: .host :: ts } ∧
      step t = .next u ∧ u.phase = .done ∧ u.held = none ∧ u.pending = .issue r :: rest ∧
      step u = .next v ∧ v.op = requestOp r ∧ v.a = requestOperand r ∧ v.phase = .busy ∧ v.pending = rest ∧
      v.value = u.value ∧ v.iters = u.iters

/-- 60_exceptions.md R146: an Issue of a reserved code in BUSY first holds, and is refused when the hold lifts. So is, in
a build that refuses at Issue what `refuse` refuses, an Issue of RSQRTTBL outside its domain (log 22). -/
def Obligations.ReservedIssueHoldsFirst : Prop :=
  ∀ (s : State) (ts : List Turn) (r : Request) (rest : List HostAction) (i : Instr), s.cfg.wf = true →
    s.phase = .busy → s.pending = .issue r :: rest → decode (requestOf s.op s.a) = .ok i →
    requestResponds s.cfg i = true → s.turns = .host :: .block :: .host :: ts →
    ∃ t u, step s = .next t ∧ t.held = some .issueWhileBusy ∧ step t = .next u ∧ u.phase = .done ∧ u.held = none ∧
      (7 ≤ (requestOp r).toNat → step u = .refused (.reservedOp (requestOp r))) ∧
      ∀ a, decode r = .ok (.rsqrttbl a) → a.toNat < 2 ^ 22 ∨ 2 ^ 24 ≤ a.toNat → s.cfg.rsqrtOod = .refuse →
        s.cfg.oodRefusedAt = .issue → step u = .refused (.rsqrtTableOutOfDomain a)

/-- 10_state.md R30: Read returns VALUE and ITERS in DONE and changes nothing of the block, so two Reads with no Issue
between them return the same pair; in BUSY it holds until Complete and then returns the new response; in IDLE it
faults. The host's turn is one that is listed, or none listed outside BUSY (log 8). -/
def Obligations.ReadEffect : Prop :=
  ∀ (s : State) (rest : List HostAction), s.cfg.wf = true → (nextTurn s).1 = .host → s.pending = .read :: rest →
    (s.phase = .done → ∃ u, u = { s with
        turns := s.turns.tail, pending := rest, replies := .response s.value s.iters :: s.replies } ∧
      step s = .next u ∧
      (∀ rest', (nextTurn u).1 = .host → rest = .read :: rest' → ∃ v, step u = .next v ∧
        v.replies = .response s.value s.iters :: .response s.value s.iters :: s.replies)) ∧
    (s.phase = .done → s.Inv → ∃ i, decode (requestOf s.op s.a) = .ok i ∧ s.holdsResponse i) ∧
    (s.phase = .busy → ∃ t, t = { s with turns := s.turns.tail, held := some .readWhileBusy } ∧ step s = .next t ∧
      (∀ i, (nextTurn t).1 = .block → decode (requestOf s.op s.a) = .ok i → requestResponds s.cfg i = true →
        ∃ u, step t = .next u ∧ u.phase = .done ∧ u.held = none ∧ State.holdsResponse u i ∧ u.pending = .read :: rest ∧
          ((nextTurn u).1 = .host → ∃ v, step u = .next v ∧ v.pending = rest ∧
            v.replies = .response u.value u.iters :: s.replies))) ∧
    (s.phase = .idle → step s = .fault .readBeforeResponse)

/-- A Read never returns the response of an older request (20_memory.md R52): what a step gives the host is PHASE, or the
response of the request now in OP and A. -/
def Obligations.ReadNeverReturnsAnOlderResponse : Prop :=
  ∀ s t : State, s.Inv → step s = .next t → t.replies = s.replies ∨ t.replies = .phase s.phase :: s.replies ∨
    (s.phase = .done ∧ t.replies = .response s.value s.iters :: s.replies ∧
      ∃ i, decode (requestOf s.op s.a) = .ok i ∧ s.holdsResponse i)

/-- A look at PHASE works in any phase and changes nothing of the block (10_state.md R24, R32). It is the host's oldest
action, on its turn: one that is listed, or none listed outside BUSY (log 8, log 21). -/
def Obligations.ObserveEffect : Prop :=
  ∀ (s : State) (rest : List HostAction), s.cfg.wf = true → (nextTurn s).1 = .host → s.pending = .observe :: rest →
    step s = .next { s with turns := s.turns.tail, pending := rest, replies := .phase s.phase :: s.replies }

/-- 70_reset_and_hazards.md R161, R162: reset, in BUSY too, leaves the block in IDLE with no response given and the
configuration unchanged, and releases a held host: its Read then faults, its Issue is accepted at once. That reset is a
turn and leaves the host's actions, turns and replies, so that a held Issue is still there to be accepted, is the model's
choice (log 17). -/
def Obligations.ResetEffect : Prop :=
  ∀ (s : State) (ts : List Turn), s.cfg.wf = true → s.turns = .reset :: ts →
    ∃ t, step s = .next t ∧ t.phase = .idle ∧ t.held = none ∧ t.cfg = s.cfg ∧ t.pending = s.pending ∧
      t.replies = s.replies ∧
      (∀ rest, (nextTurn t).1 = .host → s.pending = .read :: rest → step t = .fault .readBeforeResponse) ∧
      (∀ r rest i, (nextTurn t).1 = .host → s.pending = .issue r :: rest → decode r = .ok i →
        requestResponds s.cfg i = true ∨ s.cfg.oodRefusedAt = .complete → ∃ u, step t = .next u ∧ u.phase = .busy ∧
          u.op = requestOp r ∧ u.a = requestOperand r)

/-- The state after reset is in IDLE (70_reset_and_hazards.md R160), meets the invariant, and its first Read faults. -/
def Obligations.ResetStateIsIdle : Prop :=
  State.reset.phase = .idle ∧ State.reset.Inv ∧
    step { State.reset with pending := [.read] } = .fault .readBeforeResponse

/-- Where each register can change (10_state.md R24, R27, R29; 70_reset_and_hazards.md R160): OP and A only by an Issue
outside BUSY, VALUE and ITERS only by Complete in BUSY, PHASE by Issue, Complete or reset. That reset may change OP, A,
VALUE and ITERS too is the model's choice (log 2). -/
def Obligations.WhoWritesWhichRegister : Prop :=
  ∀ s t : State, step s = .next t →
    (t.op ≠ s.op ∨ t.a ≠ s.a → (nextTurn s).1 = .reset ∨
      ((nextTurn s).1 = .host ∧ s.phase ≠ .busy ∧
        ∃ r rest, s.pending = .issue r :: rest ∧ t.op = requestOp r ∧ t.a = requestOperand r)) ∧
    (t.value ≠ s.value ∨ t.iters ≠ s.iters →
      (nextTurn s).1 = .reset ∨ ((nextTurn s).1 = .block ∧ s.phase = .busy ∧ t.phase = .done)) ∧
    (t.phase ≠ s.phase → ((nextTurn s).1 = .reset ∧ t.phase = .idle) ∨
      ((nextTurn s).1 = .host ∧ s.phase ≠ .busy ∧ t.phase = .busy ∧ ∃ r rest, s.pending = .issue r :: rest) ∨
      ((nextTurn s).1 = .block ∧ s.phase = .busy ∧ t.phase = .done))

/-! ## The whole machine -/

/-- Every step keeps the invariant: a BUSY block holds a request that Issue takes (10_state.md R27; in a build that
refuses at Issue what `refuse` refuses, one that ends in a response: log 22), a DONE block holds the response of its
request, a host waits only on a BUSY block, the working registers keep their bounds (10_state.md R25, R29, R30). -/
def Obligations.StepKeepsTheInvariant : Prop :=
  ∀ s t : State, s.Inv → step s = .next t → t.Inv

/-- 60_exceptions.md R142 is a closed list: the one fault is a Read in IDLE; the refusals are a reserved Issue outside
BUSY, RSQRTTBL outside its domain under `refuse`, and an ill-formed configuration. Whether RSQRTTBL is refused at its
Complete (10_state.md R27, R29) or at its Issue (R147) is the model's parameter (log 22). -/
def Obligations.OnlyTheseStops : Prop :=
  ∀ s : State, s.Inv →
    (∀ f, step s = .fault f ↔ f = .readBeforeResponse ∧ s.cfg.wf = true ∧ (nextTurn s).1 = .host ∧ s.phase = .idle ∧
      ∃ rest, s.pending = .read :: rest) ∧
    (∀ f, step s = .refused f ↔
      (f = .illFormedConfig ∧ s.cfg.wf = false) ∨
      (s.cfg.wf = true ∧ (nextTurn s).1 = .host ∧ s.phase ≠ .busy ∧ ∃ r rest, s.pending = .issue r :: rest ∧
        ((7 ≤ (requestOp r).toNat ∧ f = .reservedOp (requestOp r)) ∨
          (requestOp r = 0x4#4 ∧ s.cfg.rsqrtOod = .refuse ∧ s.cfg.oodRefusedAt = .issue ∧
            ((requestOperand r).toNat < 2 ^ 22 ∨ 2 ^ 24 ≤ (requestOperand r).toNat) ∧
            f = .rsqrtTableOutOfDomain (requestOperand r)))) ∨
      (s.cfg.wf = true ∧ (nextTurn s).1 = .block ∧ s.phase = .busy ∧ s.op = 0x4#4 ∧ s.cfg.rsqrtOod = .refuse ∧
        s.cfg.oodRefusedAt = .complete ∧ (s.a.toNat < 2 ^ 22 ∨ 2 ^ 24 ≤ s.a.toNat) ∧
        f = .rsqrtTableOutOfDomain s.a))

/-- Nothing is left half done (60_exceptions.md R147): a request is refused at its Issue outside BUSY, before any register
changes, or it completes with its whole response on the block's turn. The one case R147 and 10_state.md R27 with R29 see
differently is the model's parameter (log 22): in a build that refuses at Issue R147 holds of every request, in any other
RSQRTTBL outside its domain under `refuse` is refused on the block's turn, and that step writes no register. -/
def Obligations.NothingIsLeftHalfDone : Prop :=
  ∀ s : State, s.Inv → s.cfg.wf = true →
    (∀ f, step s = .refused f →
      ((nextTurn s).1 = .host ∧ s.phase ≠ .busy ∧ ∃ r rest, s.pending = .issue r :: rest) ∨
      (s.cfg.oodRefusedAt = .complete ∧ (nextTurn s).1 = .block ∧ s.phase = .busy ∧ ∃ a,
        decode (requestOf s.op s.a) = .ok (.rsqrttbl a) ∧ requestResponds s.cfg (.rsqrttbl a) = false)) ∧
    ((nextTurn s).1 = .block → s.phase = .busy →
      (s.cfg.oodRefusedAt = .issue ∨
        ∃ i, decode (requestOf s.op s.a) = .ok i ∧ requestResponds s.cfg i = true) →
      ∃ t i, step s = .next t ∧ t.phase = .done ∧ t.op = s.op ∧ t.a = s.a ∧ t.held = none ∧
        decode (requestOf s.op s.a) = .ok i ∧ State.holdsResponse t i)

/-- A host that keeps 10_state.md R32 and 43_rsqrt_table.md R116 never meets a fault or a refusal, however long the run
and whatever the order of turns. -/
def Obligations.DisciplinedHostIsSafe : Prop :=
  ∀ s : State, s.cfg.wf = true → s.Inv → s.HostDisciplined → s.Safe

/-- A BUSY block completes (10_state.md R29, weak fairness as log 9 has it): unless reset comes or the request is
refused, after at most one step more than the turns listed the block is DONE with the response of its request. -/
def Obligations.BusyBlockCompletes : Prop :=
  ∀ (s : State) (i : Instr), s.cfg.wf = true → s.phase = .busy → decode (requestOf s.op s.a) = .ok i →
    requestResponds s.cfg i = true → Turn.reset ∉ s.turns →
    ∃ k t, k ≤ s.turns.length + 1 ∧ Host.Core.run Sys2Proof.core k s = .next t ∧ t.phase = .done ∧ t.op = s.op ∧
      t.a = s.a ∧ State.holdsResponse t i ∧ t.held = none

/-- 10_state.md R25: no rule reads the working registers before the request that next writes them, so nothing a step
does depends on what they held. That RSQRTTBL outside its domain draws one value in both runs is the model's choice
(log 5): the draw is by its number and the operand. -/
def Obligations.WorkingRegistersAreHidden : Prop :=
  ∀ (s : State) (w : Work),
    (∀ t, step s = .next t → ∃ w', step (s.withWork w) = .next (t.withWork w')) ∧
    (∀ f, step s = .fault f → step (s.withWork w) = .fault f) ∧
    (∀ f, step s = .refused f → step (s.withWork w) = .refused f)
end

