-- ==== Sys2Proof/Laws/Encoding.lean ====
section
/-! SUPPORT. The fields of request and response words, and what the decoder reads from its op code. -/

namespace Sys2Proof

theorem requestOf_getLsbD (op : OpCode) (a : Word) (k : Nat) :
    (requestOf op a).getLsbD k = if k < 32 then a.getLsbD k else op.getLsbD (k - 32) :=
  BitVec.getLsbD_append

theorem responseOf_getLsbD (v : Word) (c : IterCount) (k : Nat) :
    (responseOf v c).getLsbD k = if k < 8 then c.getLsbD k else v.getLsbD (k - 8) :=
  BitVec.getLsbD_append

@[simp] theorem requestOp_requestOf (op : OpCode) (a : Word) : requestOp (requestOf op a) = op := by
  apply BitVec.eq_of_getLsbD_eq
  intro k hk
  simp [requestOp, requestOf_getLsbD, hk]

@[simp] theorem requestOperand_requestOf (op : OpCode) (a : Word) : requestOperand (requestOf op a) = a := by
  apply BitVec.eq_of_getLsbD_eq
  intro k hk
  simp [requestOperand, requestOf_getLsbD, hk]

@[simp] theorem requestOf_fields (r : Request) : requestOf (requestOp r) (requestOperand r) = r := by
  apply BitVec.eq_of_getLsbD_eq
  intro k hk
  by_cases h : k < 32
  · simp [requestOperand, requestOf_getLsbD, h]
  · simp [requestOp, requestOf_getLsbD, h, show k - 32 < 4 by omega,
      show 32 + (k - 32) = k by omega]

@[simp] theorem decode_requestOf (op : OpCode) (a : Word) : decode (requestOf op a) = decodeFields op a := by
  simp [decode]

/-- What the decoder answers, op code by op code. -/
theorem decodeFields_cases (op : OpCode) (a : Word) :
    (op.toNat = 0 ∧ decodeFields op a = .ok (.log2floor a)) ∨ (op.toNat = 1 ∧ decodeFields op a = .ok (.log2ceil a)) ∨
    (op.toNat = 2 ∧ decodeFields op a = .ok (.sqrt a)) ∨ (op.toNat = 3 ∧ decodeFields op a = .ok (.rsqrt a)) ∨
    (op.toNat = 4 ∧ decodeFields op a = .ok (.rsqrttbl a)) ∨ (op.toNat = 5 ∧ decodeFields op a = .ok (.sin a)) ∨
    (op.toNat = 6 ∧ decodeFields op a = .ok (.cos a)) ∨
    (7 ≤ op.toNat ∧ decodeFields op a = .error (.reservedOp op)) := by
  unfold decodeFields
  split <;> simp_all <;> omega

/-- A defined op code decodes, a reserved one does not. -/
theorem decodeFields_isOk_iff (op : OpCode) (a : Word) : (∃ i, decodeFields op a = .ok i) ↔ op.toNat ≤ 6 := by
  rcases decodeFields_cases op a with ⟨h, e⟩ | ⟨h, e⟩ | ⟨h, e⟩ | ⟨h, e⟩ | ⟨h, e⟩ | ⟨h, e⟩ | ⟨h, e⟩ | ⟨h, e⟩ <;>
    (simp [e]; omega)

theorem decodeFields_reserved {op : OpCode} (h : 7 ≤ op.toNat) (a : Word) :
    decodeFields op a = .error (.reservedOp op) := by
  rcases decodeFields_cases op a with ⟨h', e⟩ | ⟨h', e⟩ | ⟨h', e⟩ | ⟨h', e⟩ | ⟨h', e⟩ | ⟨h', e⟩ | ⟨h', e⟩ | ⟨h', e⟩ <;>
    first | exact e | omega

@[simp] theorem responseValue_responseOf (v : Word) (c : IterCount) : responseValue (responseOf v c) = v := by
  apply BitVec.eq_of_getLsbD_eq
  intro k hk
  simp [responseValue, responseOf_getLsbD, hk]

@[simp] theorem responseIters_responseOf (v : Word) (c : IterCount) : responseIters (responseOf v c) = c := by
  apply BitVec.eq_of_getLsbD_eq
  intro k hk
  simp [responseIters, responseOf_getLsbD, hk]

end Sys2Proof
end

