-- ==== Sys2Proof/Laws/State.lean ====
section
/-! SUPPORT. One lemma per field per update of the state, and the updates that cancel, so that no later proof unfolds
a record update. -/

namespace Sys2Proof.Machine

/-! ### `State.complete` -/

@[simp] theorem State.complete_op (r : Answer) (s : State) : (s.complete r).op = s.op := rfl
@[simp] theorem State.complete_a (r : Answer) (s : State) : (s.complete r).a = s.a := rfl
@[simp] theorem State.complete_value (r : Answer) (s : State) : (s.complete r).value = BitVec.ofInt 32 r.value := rfl
@[simp] theorem State.complete_iters (r : Answer) (s : State) : (s.complete r).iters = BitVec.ofNat 8 r.iters := rfl
@[simp] theorem State.complete_phase (r : Answer) (s : State) : (s.complete r).phase = .done := rfl
@[simp] theorem State.complete_work (r : Answer) (s : State) : (s.complete r).work = freeWork s.draws s.op s.a := rfl
@[simp] theorem State.complete_held (r : Answer) (s : State) : (s.complete r).held = none := rfl
@[simp] theorem State.complete_cfg (r : Answer) (s : State) : (s.complete r).cfg = s.cfg := rfl
@[simp] theorem State.complete_draws (r : Answer) (s : State) : (s.complete r).draws = s.draws + 1 := rfl
@[simp] theorem State.complete_pending (r : Answer) (s : State) : (s.complete r).pending = s.pending := rfl
@[simp] theorem State.complete_turns (r : Answer) (s : State) : (s.complete r).turns = s.turns := rfl
@[simp] theorem State.complete_replies (r : Answer) (s : State) : (s.complete r).replies = s.replies := rfl

/-! ### `State.withWork` -/

@[simp] theorem State.withWork_op (w : Work) (s : State) : (s.withWork w).op = s.op := rfl
@[simp] theorem State.withWork_a (w : Work) (s : State) : (s.withWork w).a = s.a := rfl
@[simp] theorem State.withWork_value (w : Work) (s : State) : (s.withWork w).value = s.value := rfl
@[simp] theorem State.withWork_iters (w : Work) (s : State) : (s.withWork w).iters = s.iters := rfl
@[simp] theorem State.withWork_phase (w : Work) (s : State) : (s.withWork w).phase = s.phase := rfl
@[simp] theorem State.withWork_work (w : Work) (s : State) : (s.withWork w).work = w := rfl
@[simp] theorem State.withWork_held (w : Work) (s : State) : (s.withWork w).held = s.held := rfl
@[simp] theorem State.withWork_cfg (w : Work) (s : State) : (s.withWork w).cfg = s.cfg := rfl
@[simp] theorem State.withWork_draws (w : Work) (s : State) : (s.withWork w).draws = s.draws := rfl
@[simp] theorem State.withWork_pending (w : Work) (s : State) : (s.withWork w).pending = s.pending := rfl
@[simp] theorem State.withWork_turns (w : Work) (s : State) : (s.withWork w).turns = s.turns := rfl
@[simp] theorem State.withWork_replies (w : Work) (s : State) : (s.withWork w).replies = s.replies := rfl

/-! ### `State.dropAction` -/

@[simp] theorem State.dropAction_op (rest : List HostAction) (s : State) : (s.dropAction rest).op = s.op := rfl
@[simp] theorem State.dropAction_a (rest : List HostAction) (s : State) : (s.dropAction rest).a = s.a := rfl
@[simp] theorem State.dropAction_value (rest : List HostAction) (s : State) : (s.dropAction rest).value = s.value := rfl
@[simp] theorem State.dropAction_iters (rest : List HostAction) (s : State) : (s.dropAction rest).iters = s.iters := rfl
@[simp] theorem State.dropAction_phase (rest : List HostAction) (s : State) : (s.dropAction rest).phase = s.phase := rfl
@[simp] theorem State.dropAction_work (rest : List HostAction) (s : State) : (s.dropAction rest).work = s.work := rfl
@[simp] theorem State.dropAction_held (rest : List HostAction) (s : State) : (s.dropAction rest).held = s.held := rfl
@[simp] theorem State.dropAction_cfg (rest : List HostAction) (s : State) : (s.dropAction rest).cfg = s.cfg := rfl
@[simp] theorem State.dropAction_draws (rest : List HostAction) (s : State) : (s.dropAction rest).draws = s.draws := rfl
@[simp] theorem State.dropAction_pending (rest : List HostAction) (s : State) : (s.dropAction rest).pending = rest := rfl
@[simp] theorem State.dropAction_turns (rest : List HostAction) (s : State) : (s.dropAction rest).turns = s.turns := rfl
@[simp] theorem State.dropAction_replies (rest : List HostAction) (s : State) : (s.dropAction rest).replies = s.replies := rfl

/-! ### `State.takeRequest` -/

@[simp] theorem State.takeRequest_op (op : OpCode) (a : Word) (s : State) : (s.takeRequest op a).op = op := rfl
@[simp] theorem State.takeRequest_a (op : OpCode) (a : Word) (s : State) : (s.takeRequest op a).a = a := rfl
@[simp] theorem State.takeRequest_value (op : OpCode) (a : Word) (s : State) : (s.takeRequest op a).value = s.value := rfl
@[simp] theorem State.takeRequest_iters (op : OpCode) (a : Word) (s : State) : (s.takeRequest op a).iters = s.iters := rfl
@[simp] theorem State.takeRequest_phase (op : OpCode) (a : Word) (s : State) : (s.takeRequest op a).phase = .busy := rfl
@[simp] theorem State.takeRequest_work (op : OpCode) (a : Word) (s : State) : (s.takeRequest op a).work = s.work := rfl
@[simp] theorem State.takeRequest_held (op : OpCode) (a : Word) (s : State) : (s.takeRequest op a).held = s.held := rfl
@[simp] theorem State.takeRequest_cfg (op : OpCode) (a : Word) (s : State) : (s.takeRequest op a).cfg = s.cfg := rfl
@[simp] theorem State.takeRequest_draws (op : OpCode) (a : Word) (s : State) : (s.takeRequest op a).draws = s.draws := rfl
@[simp] theorem State.takeRequest_pending (op : OpCode) (a : Word) (s : State) : (s.takeRequest op a).pending = s.pending := rfl
@[simp] theorem State.takeRequest_turns (op : OpCode) (a : Word) (s : State) : (s.takeRequest op a).turns = s.turns := rfl
@[simp] theorem State.takeRequest_replies (op : OpCode) (a : Word) (s : State) : (s.takeRequest op a).replies = s.replies := rfl

/-! ### `State.hold` -/

@[simp] theorem State.hold_op (h : Hold) (s : State) : (s.hold h).op = s.op := rfl
@[simp] theorem State.hold_a (h : Hold) (s : State) : (s.hold h).a = s.a := rfl
@[simp] theorem State.hold_value (h : Hold) (s : State) : (s.hold h).value = s.value := rfl
@[simp] theorem State.hold_iters (h : Hold) (s : State) : (s.hold h).iters = s.iters := rfl
@[simp] theorem State.hold_phase (h : Hold) (s : State) : (s.hold h).phase = s.phase := rfl
@[simp] theorem State.hold_work (h : Hold) (s : State) : (s.hold h).work = s.work := rfl
@[simp] theorem State.hold_held (h : Hold) (s : State) : (s.hold h).held = some h := rfl
@[simp] theorem State.hold_cfg (h : Hold) (s : State) : (s.hold h).cfg = s.cfg := rfl
@[simp] theorem State.hold_draws (h : Hold) (s : State) : (s.hold h).draws = s.draws := rfl
@[simp] theorem State.hold_pending (h : Hold) (s : State) : (s.hold h).pending = s.pending := rfl
@[simp] theorem State.hold_turns (h : Hold) (s : State) : (s.hold h).turns = s.turns := rfl
@[simp] theorem State.hold_replies (h : Hold) (s : State) : (s.hold h).replies = s.replies := rfl

/-! ### `State.give` -/

@[simp] theorem State.give_op (r : Reply) (s : State) : (s.give r).op = s.op := rfl
@[simp] theorem State.give_a (r : Reply) (s : State) : (s.give r).a = s.a := rfl
@[simp] theorem State.give_value (r : Reply) (s : State) : (s.give r).value = s.value := rfl
@[simp] theorem State.give_iters (r : Reply) (s : State) : (s.give r).iters = s.iters := rfl
@[simp] theorem State.give_phase (r : Reply) (s : State) : (s.give r).phase = s.phase := rfl
@[simp] theorem State.give_work (r : Reply) (s : State) : (s.give r).work = s.work := rfl
@[simp] theorem State.give_held (r : Reply) (s : State) : (s.give r).held = s.held := rfl
@[simp] theorem State.give_cfg (r : Reply) (s : State) : (s.give r).cfg = s.cfg := rfl
@[simp] theorem State.give_draws (r : Reply) (s : State) : (s.give r).draws = s.draws := rfl
@[simp] theorem State.give_pending (r : Reply) (s : State) : (s.give r).pending = s.pending := rfl
@[simp] theorem State.give_turns (r : Reply) (s : State) : (s.give r).turns = s.turns := rfl
@[simp] theorem State.give_replies (r : Reply) (s : State) : (s.give r).replies = r :: s.replies := rfl

/-! ### `State.resetBlock` -/

@[simp] theorem State.resetBlock_op (s : State) : (s.resetBlock).op = State.reset.op := rfl
@[simp] theorem State.resetBlock_a (s : State) : (s.resetBlock).a = State.reset.a := rfl
@[simp] theorem State.resetBlock_value (s : State) : (s.resetBlock).value = State.reset.value := rfl
@[simp] theorem State.resetBlock_iters (s : State) : (s.resetBlock).iters = State.reset.iters := rfl
@[simp] theorem State.resetBlock_phase (s : State) : (s.resetBlock).phase = .idle := rfl
@[simp] theorem State.resetBlock_work (s : State) : (s.resetBlock).work = State.reset.work := rfl
@[simp] theorem State.resetBlock_held (s : State) : (s.resetBlock).held = none := rfl
@[simp] theorem State.resetBlock_cfg (s : State) : (s.resetBlock).cfg = s.cfg := rfl
@[simp] theorem State.resetBlock_draws (s : State) : (s.resetBlock).draws = s.draws := rfl
@[simp] theorem State.resetBlock_pending (s : State) : (s.resetBlock).pending = s.pending := rfl
@[simp] theorem State.resetBlock_turns (s : State) : (s.resetBlock).turns = s.turns := rfl
@[simp] theorem State.resetBlock_replies (s : State) : (s.resetBlock).replies = s.replies := rfl

/-! ### `State.withFetchWord` -/

@[simp] theorem State.withFetchWord_op (s : State) (n w : Nat) :
    (s.withFetchWord n w).op = requestOp (BitVec.ofNat 36 w) := rfl
@[simp] theorem State.withFetchWord_a (s : State) (n w : Nat) :
    (s.withFetchWord n w).a = requestOperand (BitVec.ofNat 36 w) := rfl
@[simp] theorem State.withFetchWord_value (s : State) (n w : Nat) :
    (s.withFetchWord n w).value = s.value := rfl
@[simp] theorem State.withFetchWord_iters (s : State) (n w : Nat) :
    (s.withFetchWord n w).iters = s.iters := rfl
@[simp] theorem State.withFetchWord_phase (s : State) (n w : Nat) :
    (s.withFetchWord n w).phase = .busy := rfl
@[simp] theorem State.withFetchWord_work (s : State) (n w : Nat) :
    (s.withFetchWord n w).work = s.work := rfl
@[simp] theorem State.withFetchWord_held (s : State) (n w : Nat) :
    (s.withFetchWord n w).held = s.held := rfl
@[simp] theorem State.withFetchWord_cfg (s : State) (n w : Nat) :
    (s.withFetchWord n w).cfg = s.cfg := rfl
@[simp] theorem State.withFetchWord_draws (s : State) (n w : Nat) :
    (s.withFetchWord n w).draws = s.draws := rfl
@[simp] theorem State.withFetchWord_pending (s : State) (n w : Nat) :
    (s.withFetchWord n w).pending = s.pending := rfl
@[simp] theorem State.withFetchWord_turns (s : State) (n w : Nat) :
    (s.withFetchWord n w).turns = .block :: s.turns := rfl
@[simp] theorem State.withFetchWord_replies (s : State) (n w : Nat) :
    (s.withFetchWord n w).replies = s.replies := rfl

/-! ### Updates that cancel -/

@[simp] theorem State.withWork_withWork (w w' : Work) (s : State) : (s.withWork w).withWork w' = s.withWork w' := rfl
@[simp] theorem State.withWork_own_work (s : State) : s.withWork s.work = s := rfl
@[simp] theorem State.complete_withWork (r : Answer) (w : Work) (s : State) :
    (s.withWork w).complete r = s.complete r := rfl
@[simp] theorem State.completeBisect_withWork (w : Work) (s : State) :
    (s.withWork w).completeBisect = s.complete (bisectAnswer w) := rfl
@[simp] theorem State.status_eq (s : State) : s.status = s.phase := rfl

end Sys2Proof.Machine
end

