-- ==== Sys2Proof/Laws/Ops.lean ====
section
/-! SUPPORT. What the shared operations do, said once: bit fields, table reads, Log2Floor, Bisect, Lerp. -/

namespace Sys2Proof

theorem hasEntries_iff_length : ∀ (n : Nat) (t : List Entry), hasEntries n t = true ↔ t.length = n
  | 0, [] => by simp [hasEntries]
  | 0, _ :: _ => by simp [hasEntries]
  | _ + 1, [] => by simp [hasEntries]
  | n + 1, _ :: t => by simpa [hasEntries] using hasEntries_iff_length n t

namespace Machine

/-! ### Fields and tables -/

theorem field_eq (v lo width : Nat) : field v lo width = v / 2 ^ lo % 2 ^ width := by
  rw [field, Nat.shiftRight_eq_div_pow]

theorem field_lt (v lo width : Nat) : field v lo width < 2 ^ width :=
  Nat.mod_lt _ (Nat.two_pow_pos width)

/-- A table read answers inside the table and only there. -/
theorem readTable_isSome_iff {α : Type} (t : List α) (i : Nat) : (readTable t i).isSome ↔ i < t.length := by
  simp [readTable]

theorem readTable_eq_some_of_lt {α : Type} {t : List α} {i : Nat} (h : i < t.length) :
    readTable t i = some t[i] := by
  simp [readTable, h]

/-! ### Log2Floor -/

theorem log2Table_length : log2Table.length = 256 := by
  simp only [log2Table, List.length_append, List.length_cons, List.length_nil, List.length_replicate]

theorem log2Entry_zero : log2Entry 0 = -1 := by decide

set_option maxRecDepth 4000 in
theorem log2Entry_ranges : ∀ k : Fin 8, ∀ d : Fin (2 ^ k.val), log2Entry (2 ^ k.val + d.val) = k.val := by decide

theorem log2Entry_of_range {b k : Nat} (hk : k < 8) (lo : 2 ^ k ≤ b) (hi : b < 2 ^ (k + 1)) :
    log2Entry b = k := by
  have hd : b - 2 ^ k < 2 ^ k := by rw [pow_succ] at hi; omega
  have := log2Entry_ranges ⟨k, hk⟩ ⟨b - 2 ^ k, hd⟩
  simpa [Nat.add_sub_cancel' lo] using this

theorem log2Entry_eq_log {b : Nat} (pos : b ≠ 0) (lt : b < 256) : log2Entry b = (Nat.log 2 b : Nat) := by
  refine log2Entry_of_range ?_ (Nat.pow_log_le_self 2 pos) (Nat.lt_pow_succ_log_self (by norm_num) b)
  exact Nat.log_lt_of_lt_pow pos (by simpa using lt)

/-- The logarithm of a number whose upper part `v / 2^s` is not zero. -/
theorem log_of_upper {v s : Nat} (h : v / 2 ^ s ≠ 0) : Nat.log 2 v = s + Nat.log 2 (v / 2 ^ s) := by
  have hv : v / 2 ^ s ≤ v := Nat.div_le_self _ _
  have lo := Nat.pow_log_le_self 2 h
  have hi := Nat.lt_pow_succ_log_self (b := 2) (by norm_num) (v / 2 ^ s)
  refine (Nat.log_eq_iff (by right; exact ⟨by norm_num, by omega⟩)).2 ⟨?_, ?_⟩
  · calc 2 ^ (s + Nat.log 2 (v / 2 ^ s)) = 2 ^ s * 2 ^ Nat.log 2 (v / 2 ^ s) := pow_add ..
      _ ≤ 2 ^ s * (v / 2 ^ s) := Nat.mul_le_mul_left _ lo
      _ ≤ v := Nat.mul_div_le _ _
  · have : v < 2 ^ s * (v / 2 ^ s + 1) := by
      have := Nat.lt_mul_div_succ v (Nat.two_pow_pos s); simpa using this
    calc v < 2 ^ s * (v / 2 ^ s + 1) := this
      _ ≤ 2 ^ s * 2 ^ (Nat.log 2 (v / 2 ^ s) + 1) := Nat.mul_le_mul_left _ hi
      _ = 2 ^ (s + Nat.log 2 (v / 2 ^ s) + 1) := by rw [← pow_add, Nat.add_assoc]

/-- Log2Floor is the floor of the binary logarithm, and −1 at 0. -/
theorem log2Floor_eq (v : Word) :
    log2Floor v = if v = 0#32 then -1 else ((Nat.log 2 v.toNat : Nat) : Int) := by
  have hlt : v.toNat < 2 ^ 32 := v.isLt
  have hz : v = 0#32 ↔ v.toNat = 0 := by rw [← BitVec.toNat_inj]; simp
  simp only [log2Floor, field_eq, hz]
  generalize v.toNat = n at hlt
  split_ifs with h1 h2 h0 h3 h4 h5 h6
  all_goals first | (exfalso; omega) | skip
  · rw [log2Entry_eq_log (by assumption) (by omega), log_of_upper (v := n) (s := 24) (by omega),
      show n / 2 ^ 16 % 2 ^ 16 / 2 ^ 8 % 2 ^ 8 = n / 2 ^ 24 by omega]; push_cast; rfl
  · rw [log2Entry_eq_log (by omega) (by omega), log_of_upper (v := n) (s := 16) (by omega),
      show n / 2 ^ 16 % 2 ^ 16 / 2 ^ 0 % 2 ^ 8 = n / 2 ^ 16 by omega]; push_cast; rfl
  · rw [log2Entry_eq_log (by assumption) (by omega), log_of_upper (v := n) (s := 8) (by omega),
      show n / 2 ^ 0 % 2 ^ 16 / 2 ^ 8 % 2 ^ 8 = n / 2 ^ 8 by omega]; push_cast; rfl
  · rw [show n / 2 ^ 0 % 2 ^ 16 / 2 ^ 0 % 2 ^ 8 = 0 by omega, log2Entry_zero]; rfl
  · rw [log2Entry_eq_log (by omega) (by omega), show n / 2 ^ 0 % 2 ^ 16 / 2 ^ 0 % 2 ^ 8 = n by omega]; simp

theorem log2Floor_toNat {v : Word} (h : v ≠ 0#32) : (log2Floor v).toNat = Nat.log 2 v.toNat := by
  simp [log2Floor_eq, h]

/-! ### Bisect -/

/-- What every step that the exit test lets through keeps, the loop keeps. -/
theorem bisectLoop_keeps {P : Work → Prop} {maxIter : Nat} {tooBig : Nat → Bool}
    (step : ∀ w, P w → bisectGoing maxIter w = true → P (bisectStep tooBig w)) :
    ∀ n w, P w → P (bisectLoop maxIter tooBig n w)
  | 0, _, h => h
  | n + 1, w, h => by
    unfold bisectLoop
    split
    · exact bisectLoop_keeps step n _ (step w h ‹_›)
    · exact h

/-- One step moves one bound to the midpoint and counts. -/
theorem bisectStep_cases (tooBig : Nat → Bool) (w : Work) :
    (tooBig (bracketMid w) = true ∧ bisectStep tooBig w = { w with upper := bracketMid w, k := w.k + 1 }) ∨
    (tooBig (bracketMid w) = false ∧ bisectStep tooBig w = { w with lower := bracketMid w, k := w.k + 1 }) := by
  unfold bisectStep
  cases h : tooBig (bracketMid w)
  · exact .inr ⟨rfl, by simp⟩
  · exact .inl ⟨rfl, by simp⟩

theorem bracketMid_of_width {w : Work} {m : Nat} (h : w.upper = w.lower + 2 ^ (m + 1)) :
    bracketMid w = w.lower + 2 ^ m := by
  rw [bracketMid, Nat.shiftRight_eq_div_pow, h, pow_succ]; omega

/-- How far the loop gets from a bracket of width `2^m`, when a width `2^j` is within tolerance exactly for `j ≤ e`:
it takes `m − e` steps, or as many as the counter and the looks allow, and each halves the width. -/
theorem bisectLoop_width {maxIter : Nat} {tooBig : Nat → Bool} {tol e : Nat}
    (he : ∀ j, 2 ^ j ≤ tol ↔ j ≤ e) :
    ∀ (n m : Nat) (w : Work), w.tol = tol → w.upper = w.lower + 2 ^ m →
      (bisectLoop maxIter tooBig n w).k = w.k + min n (min (maxIter - w.k) (m - e)) ∧
      (bisectLoop maxIter tooBig n w).upper =
        (bisectLoop maxIter tooBig n w).lower + 2 ^ (m - min n (min (maxIter - w.k) (m - e)))
  | 0, m, w, _, hw => by simp [bisectLoop, hw]
  | n + 1, m, w, ht, hw => by
    have hgo : bisectGoing maxIter w = true ↔ w.k < maxIter ∧ e < m := by
      have := he m
      simp only [bisectGoing, Bool.and_eq_true, decide_eq_true_eq, hw, ht, Nat.add_sub_cancel_left]
      omega
    unfold bisectLoop
    by_cases hg : bisectGoing maxIter w = true
    · obtain ⟨hk, hm⟩ := hgo.1 hg
      obtain ⟨m, rfl⟩ : ∃ m', m = m' + 1 := ⟨m - 1, by omega⟩
      have hmid := bracketMid_of_width hw
      rw [if_pos hg]
      have hstep : (bisectStep tooBig w).tol = tol ∧ (bisectStep tooBig w).k = w.k + 1 ∧
          (bisectStep tooBig w).upper = (bisectStep tooBig w).lower + 2 ^ m := by
        obtain ⟨-, h⟩ | ⟨-, h⟩ := bisectStep_cases tooBig w
        · simp [h, ht, hmid]
        · simp [h, ht, hmid, hw, pow_succ]; omega
      obtain ⟨h1, h2⟩ := bisectLoop_width he n m (bisectStep tooBig w) hstep.1 hstep.2.2
      rw [hstep.2.1] at h1 h2
      rw [h1, h2]
      refine ⟨by omega, ?_⟩
      congr 2
      omega
    · rw [if_neg hg]
      have : min (n + 1) (min (maxIter - w.k) (m - e)) = 0 := by
        rcases Nat.lt_or_ge w.k maxIter with hk | hk
        · have : ¬ e < m := fun h => hg (hgo.2 ⟨hk, h⟩)
          omega
        · omega
      simp [this, hw]

/-! ### Lerp -/

theorem interpDiv_nonneg (d : InterpDiv) {x y : Int} (hx : 0 ≤ x) (hy : 0 ≤ y) : interpDiv d x y = x / y := by
  cases d
  · exact Int.tdiv_eq_ediv_of_nonneg hx
  · exact Int.fdiv_eq_ediv_of_nonneg x hy

theorem half_lt_pow (b : Nat) : 2 ^ b >>> 1 < 2 ^ b := by
  have := Nat.two_pow_pos b
  rw [Nat.shiftRight_eq_div_pow]; omega

/-- Fraction 0 gives the first entry. -/
theorem lerp_zero (d : InterpDiv) (t0 t1 : Int) (b : Nat) : lerp d t0 t1 0 (2 ^ b) = t0 := by
  have h := half_lt_pow b
  rw [lerp, Nat.cast_zero, mul_zero, zero_add, interpDiv_nonneg d (by positivity) (by positivity)]
  rw [Int.ediv_eq_zero_of_lt (by positivity) (by exact_mod_cast h), add_zero]

/-- A rising pair is blended by floor division, whichever INTERP_DIV the build has. -/
theorem lerp_rising (d : InterpDiv) {t0 t1 : Int} (h : t0 ≤ t1) (f m : Nat) :
    lerp d t0 t1 f m = t0 + ((t1 - t0) * f + (m >>> 1 : Nat)) / m := by
  have : 0 ≤ t1 - t0 := by omega
  rw [lerp, interpDiv_nonneg d (by positivity) (by positivity)]

/-- Both table reads inside the table: the blend of the two entries. -/
theorem lerpTable_eq_some {t : List Entry} {p : SplitPoint} (h : p.idx + 1 < t.length) (d : InterpDiv) :
    lerpTable d t p = some (lerp d t[p.idx].toNat t[p.idx + 1].toNat p.frac p.m) := by
  simp [lerpTable, readTable, h, Nat.lt_of_succ_lt h]

/-- A blend of two entries that answers read both inside the table. -/
theorem lerpTable_cases {d : InterpDiv} {t : List Entry} {p : SplitPoint} {v : Int}
    (h : lerpTable d t p = some v) : ∃ t0 t1 : Entry, t[p.idx]? = some t0 ∧ t[p.idx + 1]? = some t1 ∧
      v = lerp d t0.toNat t1.toNat p.frac p.m := by
  unfold lerpTable readTable at h
  split at h
  · exact ⟨_, _, ‹_›, ‹_›, (Option.some.inj h).symm⟩
  · cases h

end Machine
end Sys2Proof
end

