-- ==== Sys2Proof/Laws/PerInstr.lean ====
section
/-! SUPPORT. Per-constructor laws of the request as text: the fields of its word (30_encoding.md R60, R62). -/

namespace Sys2Proof.Laws.Fields

/-- The request word of `i` carries its op code in bits 35 to 32 and its operand in bits 31 to 0, `i` is well formed,
and so is its word. -/
def Statement (i : Instr) : Prop :=
  requestOp (encode i) = i.opcode ∧ requestOperand (encode i) = i.operand ∧ i.wf = true ∧
    Request.wf (encode i) = true

theorem of_opcode {i : Instr} (hw : i.wf = true) (ho : i.opcode.toNat ≤ 6) : Statement i := by
  have h : requestOp (encode i) = i.opcode := by simp [encode]
  refine ⟨h, by simp [encode], hw, ?_⟩
  rw [requestOp] at h
  simpa [Request.wf, h] using ho

theorem log2floor (a : Word) : Statement (.log2floor a) := of_opcode rfl (by simp [Instr.opcode])
theorem log2ceil (a : Word) : Statement (.log2ceil a) := of_opcode rfl (by simp [Instr.opcode])
theorem sqrt (a : Word) : Statement (.sqrt a) := of_opcode rfl (by simp [Instr.opcode])
theorem rsqrt (a : Word) : Statement (.rsqrt a) := of_opcode rfl (by simp [Instr.opcode])
theorem rsqrttbl (a : Word) : Statement (.rsqrttbl a) := of_opcode rfl (by simp [Instr.opcode])
theorem sin (a : Word) : Statement (.sin a) := of_opcode rfl (by simp [Instr.opcode])
theorem cos (a : Word) : Statement (.cos a) := of_opcode rfl (by simp [Instr.opcode])

end Sys2Proof.Laws.Fields
end

