-- ==== Sys2Proof/Laws/Step.lean ====
section
/-! SUPPORT. What Complete, each agent's turn and a step can do, said once. -/

namespace Sys2Proof.Machine

/-- A request with an answer completes with it. -/
theorem exec_of_eval {i : Instr} {s : State} {r : Answer} (h : eval s.cfg i = some r) :
    exec i s = .next (s.complete r) := by
  cases i with
  | log2floor a => cases h; rfl
  | log2ceil a => cases h; rfl
  | sqrt a =>
    cases h
    simp only [exec, execSqrt, sqrtAnswer]
    split <;> simp
  | rsqrt a =>
    cases h
    simp only [exec, execRsqrt, rsqrtAnswer]
    split <;> simp
  | rsqrttbl a =>
    simp only [eval] at h
    split at h
    · simp [exec, execRsqrtTbl, *]
    · cases h
  | sin a =>
    simp only [eval] at h
    simp [exec, execSin, h]
  | cos a =>
    simp only [eval] at h
    simp [exec, execCos, h]

/-- Everything Complete can do: it answers with the request's answer, or with a drawn value outside the domain of
RSQRTTBL, and then only ends the request; or it refuses. -/
theorem exec_cases (i : Instr) (s : State) :
    (∃ r, eval s.cfg i = some r ∧ exec i s = .next (s.complete r)) ∨
    (∃ a, i = .rsqrttbl a ∧ inRsqrtDomain a = false ∧ s.cfg.rsqrtOod = .draw ∧
      exec i s = .next (s.complete (outOfDomainAnswer s.draws a))) ∨
    (∃ a, i = .rsqrttbl a ∧ inRsqrtDomain a = false ∧ s.cfg.rsqrtOod = .refuse ∧
      exec i s = .refused (.rsqrtTableOutOfDomain a)) ∨
    (eval s.cfg i = none ∧ exec i s = .refused .illFormedConfig ∧ ∀ a, i = .rsqrttbl a → inRsqrtDomain a = true) := by
  cases h : eval s.cfg i with
  | some r => exact .inl ⟨r, rfl, exec_of_eval h⟩
  | none =>
    refine .inr ?_
    cases i with
    | log2floor a => cases h
    | log2ceil a => cases h
    | sqrt a => cases h
    | rsqrt a => cases h
    | rsqrttbl a =>
      simp only [eval] at h
      cases hd : inRsqrtDomain a with
      | true =>
        simp only [hd, if_true] at h
        exact .inr (.inr ⟨rfl, by simp [exec, execRsqrtTbl, hd, h], by rintro b ⟨⟩; exact hd⟩)
      | false =>
        cases ho : s.cfg.rsqrtOod with
        | draw => exact .inl ⟨a, rfl, hd, rfl, by simp [exec, execRsqrtTbl, hd, ho]⟩
        | refuse => exact .inr (.inl ⟨a, rfl, hd, rfl, by simp [exec, execRsqrtTbl, hd, ho]⟩)
    | sin a =>
      simp only [eval] at h
      exact .inr (.inr ⟨rfl, by simp [exec, execSin, h], by rintro _ ⟨⟩⟩)
    | cos a =>
      simp only [eval] at h
      exact .inr (.inr ⟨rfl, by simp [exec, execCos, h], by rintro _ ⟨⟩⟩)

/-- A Complete that answers ends the request and does nothing else. -/
theorem exec_next {i : Instr} {s t : State} (h : exec i s = .next t) :
    ∃ r, t = s.complete r ∧ (eval s.cfg i = some r ∨
      ∃ a, i = .rsqrttbl a ∧ inRsqrtDomain a = false ∧ r = outOfDomainAnswer s.draws a) := by
  obtain ⟨r, he, hx⟩ | ⟨a, hi, hd, -, hx⟩ | ⟨a, -, -, -, hx⟩ | ⟨-, hx, -⟩ := exec_cases i s
  · exact ⟨r, by rw [hx] at h; exact (Host.Outcome.next.inj h).symm, .inl he⟩
  · exact ⟨_, by rw [hx] at h; exact (Host.Outcome.next.inj h).symm, .inr ⟨a, hi, hd, rfl⟩⟩
  · rw [hx] at h; cases h
  · rw [hx] at h; cases h

/-- Complete never faults. -/
theorem exec_ne_fault (i : Instr) (s : State) (f : Fault) : exec i s ≠ .fault f := by
  obtain ⟨r, -, hx⟩ | ⟨a, -, -, -, hx⟩ | ⟨a, -, -, -, hx⟩ | ⟨-, hx, -⟩ := exec_cases i s <;> simp [hx]

/-- The request in flight is what the decoder reads from OP and A. -/
theorem requestInFlight_eq_ok_iff (s : State) (i : Instr) :
    requestInFlight s = .ok i ↔ decode (requestOf s.op s.a) = .ok i := by
  simp only [requestInFlight, decode_requestOf]
  split <;> simp_all

/-- Taking a turn moves only the list of turns. -/
theorem nextTurn_cases (s : State) :
    (∃ t ts, s.turns = t :: ts ∧ nextTurn s = (t, { s with turns := ts })) ∨
    (s.turns = [] ∧ s.phase = .busy ∧ nextTurn s = (.block, s)) ∨
    (s.turns = [] ∧ s.phase ≠ .busy ∧ nextTurn s = (.host, s)) := by
  unfold nextTurn
  split
  · exact .inl ⟨_, _, ‹_›, rfl⟩
  · by_cases h : s.phase = .busy
    · exact .inr (.inl ⟨‹_›, h, by simp [h]⟩)
    · exact .inr (.inr ⟨‹_›, h, by simp [h]⟩)

/-- The state a turn is taken in is the state itself but for the list of turns. -/
theorem nextTurn_snd (s : State) : ∃ ts, (nextTurn s).2 = { s with turns := ts } := by
  obtain ⟨t, ts, -, h⟩ | ⟨h0, -, h⟩ | ⟨h0, -, h⟩ := nextTurn_cases s
  · exact ⟨ts, by rw [h]⟩
  · exact ⟨s.turns, by rw [h]⟩
  · exact ⟨s.turns, by rw [h]⟩

/-- A request that responds is taken. -/
theorem requestTaken_of_responds {c : Config} {i : Instr} (h : requestResponds c i = true) : requestTaken c i = true := by
  simp [requestTaken, h]

/-- A request of a defined op code is refused at Issue exactly when it is not taken, and then by its name. -/
theorem refusalAtIssue_cases (c : Config) (i : Instr) :
    (requestTaken c i = true ∧ refusalAtIssue c i = none) ∨
    (∃ a, i = .rsqrttbl a ∧ inRsqrtDomain a = false ∧ c.rsqrtOod = .refuse ∧ c.oodRefusedAt = .issue ∧
      requestTaken c i = false ∧ refusalAtIssue c i = some (.rsqrtTableOutOfDomain a)) := by
  cases i with
  | log2floor a => exact .inl ⟨rfl, rfl⟩
  | log2ceil a => exact .inl ⟨rfl, rfl⟩
  | sqrt a => exact .inl ⟨rfl, rfl⟩
  | rsqrt a => exact .inl ⟨rfl, rfl⟩
  | rsqrttbl a =>
    cases hd : inRsqrtDomain a <;> cases ho : c.rsqrtOod <;> cases hp : c.oodRefusedAt <;>
      simp [requestTaken, requestResponds, refusalAtIssue, hd, ho, hp]
  | sin a => exact .inl ⟨rfl, rfl⟩
  | cos a => exact .inl ⟨rfl, rfl⟩

/-- A request that is taken is not refused at Issue. -/
theorem refusalAtIssue_eq_none {c : Config} {i : Instr} (h : requestTaken c i = true) : refusalAtIssue c i = none := by
  obtain ⟨-, h'⟩ | ⟨a, -, -, -, -, h', -⟩ := refusalAtIssue_cases c i
  · exact h'
  · simp [h] at h'

/-- Everything the host's turn can do. -/
theorem hostTurn_cases (s : State) :
    (s.pending = [] ∧ hostTurn s = .next s) ∨
    (∃ r rest, s.pending = .issue r :: rest ∧ s.phase = .busy ∧ hostTurn s = .next (s.hold .issueWhileBusy)) ∨
    (∃ r rest i, s.pending = .issue r :: rest ∧ s.phase ≠ .busy ∧ decode r = .ok i ∧
      requestTaken s.cfg i = true ∧
      hostTurn s = .next ((s.dropAction rest).takeRequest (requestOp r) (requestOperand r))) ∨
    (∃ r rest a, s.pending = .issue r :: rest ∧ s.phase ≠ .busy ∧ decode r = .ok (.rsqrttbl a) ∧
      inRsqrtDomain a = false ∧ s.cfg.rsqrtOod = .refuse ∧ s.cfg.oodRefusedAt = .issue ∧
      hostTurn s = .refused (.rsqrtTableOutOfDomain a)) ∨
    (∃ r rest, s.pending = .issue r :: rest ∧ s.phase ≠ .busy ∧ 7 ≤ (requestOp r).toNat ∧
      hostTurn s = .refused (.reservedOp (requestOp r))) ∨
    (∃ rest, s.pending = .read :: rest ∧ s.phase = .done ∧
      hostTurn s = .next ((s.dropAction rest).give (.response s.value s.iters))) ∨
    (∃ rest, s.pending = .read :: rest ∧ s.phase = .busy ∧ hostTurn s = .next (s.hold .readWhileBusy)) ∨
    (∃ rest, s.pending = .read :: rest ∧ s.phase = .idle ∧ hostTurn s = .fault .readBeforeResponse) ∨
    (∃ rest, s.pending = .observe :: rest ∧ hostTurn s = .next ((s.dropAction rest).give (.phase s.phase))) := by
  cases hp : s.pending with
  | nil => exact .inl ⟨rfl, by simp [hostTurn, hp]⟩
  | cons x rest =>
    refine .inr ?_
    cases x with
    | issue r =>
      by_cases hb : s.phase = .busy
      · exact .inl ⟨r, rest, rfl, hb, by simp [hostTurn, hp, hostIssue, hb]⟩
      · refine .inr ?_
        rcases Nat.lt_or_ge (requestOp r).toNat 7 with h | h
        · obtain ⟨i, hi⟩ := (decodeFields_isOk_iff (requestOp r) (requestOperand r)).2 (by omega)
          obtain ⟨hr, hn⟩ | ⟨a, rfl, hd, ho, ha, -, hn⟩ := refusalAtIssue_cases s.cfg i
          · exact .inl ⟨r, rest, i, rfl, hb, hi, hr, by simp [hostTurn, hp, hostIssue, hb, decode, hi, hn]⟩
          · exact .inr (.inl ⟨r, rest, a, rfl, hb, hi, hd, ho, ha, by
              simp [hostTurn, hp, hostIssue, hb, decode, hi, hn]⟩)
        · exact .inr (.inr (.inl ⟨r, rest, rfl, hb, h, by
            simp [hostTurn, hp, hostIssue, hb, decode, decodeFields_reserved h, refusalOf]⟩))
    | read =>
      refine .inr (.inr (.inr (.inr ?_)))
      cases hb : s.phase with
      | done => exact .inl ⟨rest, rfl, rfl, by simp [hostTurn, hp, hostRead, hb]⟩
      | busy => exact .inr (.inl ⟨rest, rfl, rfl, by simp [hostTurn, hp, hostRead, hb]⟩)
      | idle => exact .inr (.inr (.inl ⟨rest, rfl, rfl, by simp [hostTurn, hp, hostRead, hb]⟩))
    | observe =>
      exact .inr (.inr (.inr (.inr (.inr (.inr (.inr ⟨rest, rfl, by simp [hostTurn, hp, hostObserve]⟩))))))

/-- Everything the block's turn can do. -/
theorem blockTurn_cases (s : State) :
    (s.phase ≠ .busy ∧ blockTurn s = .next s) ∨
    (∃ i, s.phase = .busy ∧ requestInFlight s = .ok i ∧ blockTurn s = exec i s) ∨
    (s.phase = .busy ∧ 7 ≤ s.op.toNat ∧ blockTurn s = .refused (.reservedOp s.op)) := by
  by_cases hb : s.phase = .busy
  · refine .inr ?_
    rcases Nat.lt_or_ge s.op.toNat 7 with h | h
    · obtain ⟨i, hi⟩ := (decodeFields_isOk_iff s.op s.a).2 (by omega)
      exact .inl ⟨i, hb, by simp [requestInFlight, hi], by simp [blockTurn, hb, requestInFlight, hi]⟩
    · exact .inr ⟨hb, h, by simp [blockTurn, hb, requestInFlight, decodeFields_reserved h, refusalOf]⟩
  · exact .inl ⟨hb, by simp [blockTurn, hb]⟩

/-- Everything a step can do: refuse an ill-formed configuration, or the turn of the agent that moves. -/
theorem step_cases (s : State) :
    (s.cfg.wf = false ∧ step s = .refused .illFormedConfig) ∨
    (s.cfg.wf = true ∧ (nextTurn s).1 = .host ∧ step s = hostTurn (nextTurn s).2) ∨
    (s.cfg.wf = true ∧ (nextTurn s).1 = .block ∧ step s = blockTurn (nextTurn s).2) ∨
    (s.cfg.wf = true ∧ (nextTurn s).1 = .reset ∧ step s = .next (nextTurn s).2.resetBlock) := by
  cases hw : s.cfg.wf with
  | false => exact .inl ⟨rfl, by simp [step, hw]⟩
  | true =>
    refine .inr ?_
    obtain ⟨t, v, u⟩ : ∃ t v, nextTurn s = (t, v) := ⟨_, _, rfl⟩
    cases t with
    | host => exact .inl ⟨rfl, by simp [u], by simp [step, hw, u]⟩
    | block => exact .inr (.inl ⟨rfl, by simp [u], by simp [step, hw, u]⟩)
    | reset => exact .inr (.inr ⟨rfl, by simp [u], by simp [step, hw, u, resetTurn]⟩)

/-- Taking a turn drops the first listed turn, if there is one, and changes nothing else. -/
theorem nextTurn_snd_eq (s : State) : (nextTurn s).2 = { s with turns := s.turns.tail } := by
  obtain ⟨t, ts, h0, h⟩ | ⟨h0, -, h⟩ | ⟨h0, -, h⟩ := nextTurn_cases s <;> rw [h] <;> simp [h0]
  all_goals rw [← h0]

/-- A step on the host's turn, listed or not. -/
theorem step_of_host {s : State} (hw : s.cfg.wf = true) (h : (nextTurn s).1 = .host) :
    step s = hostTurn { s with turns := s.turns.tail } := by
  obtain ⟨hw', -⟩ | ⟨-, -, e⟩ | ⟨-, hn, -⟩ | ⟨-, hn, -⟩ := step_cases s
  · simp [hw] at hw'
  · rw [e, nextTurn_snd_eq]
  · simp [h] at hn
  · simp [h] at hn

/-- A step on the block's turn, listed or not. -/
theorem step_of_block {s : State} (hw : s.cfg.wf = true) (h : (nextTurn s).1 = .block) :
    step s = blockTurn { s with turns := s.turns.tail } := by
  obtain ⟨hw', -⟩ | ⟨-, hn, -⟩ | ⟨-, -, e⟩ | ⟨-, hn, -⟩ := step_cases s
  · simp [hw] at hw'
  · simp [h] at hn
  · rw [e, nextTurn_snd_eq]
  · simp [h] at hn

/-- The working registers of a completed request keep their bounds. -/
theorem freeWork_bounded (n : Nat) (op : OpCode) (a : Word) : (freeWork n op a).Bounded where
  lower_le := Nat.le_of_lt_succ (Config.freeLower n op a).isLt
  upper_le := Nat.le_of_lt_succ (Config.freeUpper n op a).isLt
  tol_le := Nat.le_of_lt_succ (Config.freeTol n op a).isLt
  k_le := Nat.le_of_lt_succ (Config.freeK n op a).isLt

/-- A run of any machine takes its first step and goes on. -/
theorem run_succ_of_step (M : Host.Core) (k : Nat) (s t : M.State) (h : M.step s = .next t) :
    M.run (k + 1) s = M.run k t := by
  simp [Host.Core.run, h]

/-- A run of FPM-CORE takes its first step and goes on. -/
theorem core_run_succ (k : Nat) (s t : State) (h : step s = .next t) :
    Host.Core.run Sys2Proof.core (k + 1) s = Host.Core.run Sys2Proof.core k t :=
  run_succ_of_step Sys2Proof.core k s t h

end Sys2Proof.Machine
end

