-- ==== Sys2Proof/Tests/Slice0.lean ====
section
/-! SUPPORT. The model's own tests. Expected values come from spec/: the encodings of 30_encoding.md, the vectors and
protocol table of 95_test_vectors.md, the refused configurations of 00_scope.md R8. The second half shows, for every
statement with hypotheses, concrete data that meets them together. -/

namespace Sys2Proof.Tests

open Sys2Proof Sys2Proof.Machine

/-! ## Configurations and states to test on -/

/-- The illustrative SIN_TABLE of 95_test_vectors.md for `TB = 6`, entries 0 to 31. -/
def sinRise : List Entry :=
  [0#16, 101#16, 201#16, 301#16, 401#16, 501#16, 601#16, 700#16, 799#16, 897#16, 995#16, 1092#16, 1189#16, 1285#16,
   1380#16, 1474#16] ++
  [1567#16, 1660#16, 1751#16, 1842#16, 1931#16, 2019#16, 2106#16, 2191#16, 2276#16, 2359#16, 2440#16, 2520#16,
   2598#16, 2675#16, 2751#16, 2824#16]

/-- The same, entries 32 to 63. -/
def sinTop : List Entry :=
  [2896#16, 2967#16, 3035#16, 3102#16, 3166#16, 3229#16, 3290#16, 3349#16, 3406#16, 3461#16, 3513#16, 3564#16,
   3612#16, 3659#16, 3703#16, 3745#16] ++
  [3784#16, 3822#16, 3857#16, 3889#16, 3920#16, 3948#16, 3973#16, 3996#16, 4017#16, 4036#16, 4052#16, 4065#16,
   4076#16, 4085#16, 4091#16, 4095#16]

/-- The default configuration of 95_test_vectors.md with its illustrative tables. -/
def cfg12 : Config where
  sqrtToleranceBits := 6
  sqrtMaxIterations := 10
  rsqrtToleranceBits := 6
  rsqrtMaxIterations := 10
  rsqrtTableBits := 7
  sinTableBits := 6
  angleBits := 12
  sinTable := sinRise ++ sinTop ++ [4096#16]
  rsqrtTable := (List.range 129).map fun k => BitVec.ofNat 16 (4096 - 16 * k)
  interpDiv := .tdiv
  rsqrtTableSplit := .default
  rsqrtOod := .draw
  oodRefusedAt := .complete

/-- The smallest angle of 00_scope.md R8, with the five-entry table of 95_test_vectors.md for `TB = 2`, and five
falling entries for RSQRTTBL. -/
def cfg4 : Config :=
  { cfg12 with
    angleBits := 4, sinTableBits := 2, sinTable := [0#16, 1567#16, 2896#16, 3784#16, 4096#16]
    rsqrtTableBits := 2, rsqrtTable := [4096#16, 3072#16, 2048#16, 1024#16, 512#16] }

/-- `cfg4` with a split of one stretch, `2^23` operands an interval, that reads the table from its second entry on. -/
def cfgSplit : Config :=
  { cfg4 with rsqrtTableSplit := .regions [⟨3 * 2 ^ 22, 2 ^ 23, 23⟩] }

/-- `cfg4` with `RSQRT_OOD = refuse`, refused at Complete (10_state.md R27, R29). -/
def cfgRefuse : Config := { cfg4 with rsqrtOod := .refuse }

/-- The same, refused at Issue (60_exceptions.md R147). -/
def cfgRefuseAtIssue : Config := { cfgRefuse with oodRefusedAt := .issue }

/-- A block in IDLE. -/
def idle12 : State := { State.reset with cfg := cfg12 }

/-- A block in IDLE, smallest angle. -/
def idle4 : State := { State.reset with cfg := cfg4 }

/-- A block in BUSY with `SQRT 9`. -/
def busy9 : State := { idle4 with op := 0x2#4, a := 9#32, phase := .busy }

/-- A block in DONE with the response of `SQRT 9`. -/
def done9 : State := { idle4 with op := 0x2#4, a := 9#32, phase := .done, value := 3#32, iters := 1#8 }

/-- A block in BUSY with RSQRTTBL outside its domain, refused at Complete. -/
def busyOut : State := { idle4 with cfg := cfgRefuse, op := 0x4#4, a := 9#32, phase := .busy }

/-- The pair a completed request leaves, if it completes. -/
def answerOf (o : Host.Outcome State Fault Refusal) : Option (Word × IterCount) :=
  match o with
  | .next t => some (t.value, t.iters)
  | .fault _ => none
  | .refused _ => none

/-- The refusal a step ends in, if it does. -/
def refusalIn (o : Host.Outcome State Fault Refusal) : Option Refusal :=
  match o with
  | .refused r => some r
  | .next _ => none
  | .fault _ => none

/-- The signed value SIN leaves under `cfg12`. -/
def sin12 (a : Word) : Option Int := (answerOf (exec (.sin a) idle12)).map fun p => p.1.toInt

/-- The signed value COS leaves under `cfg12`. -/
def cos12 (a : Word) : Option Int := (answerOf (exec (.cos a) idle12)).map fun p => p.1.toInt

/-! ## Decoding (30_encoding.md R60, R62: four bits of OP, then 32 bits of A) -/

theorem test_decode_log2floor :
    decode 0b0000_0000_0000_0000_0001_0010_0011_0100_0101#36 = .ok (.log2floor 0x00012345#32) := by decide
theorem test_decode_log2ceil :
    decode 0b0001_0000_0001_0000_0000_0000_0000_0000_0001#36 = .ok (.log2ceil 0x01000001#32) := by decide
theorem test_decode_sqrt :
    decode 0b0010_0000_0001_0000_0000_0000_0000_0000_0000#36 = .ok (.sqrt 0x01000000#32) := by decide
theorem test_decode_rsqrt :
    decode 0b0011_0000_0000_0000_0001_0010_0011_0100_0101#36 = .ok (.rsqrt 0x00012345#32) := by decide
theorem test_decode_rsqrttbl :
    decode 0b0100_0000_0000_0100_1000_1101_0001_0100_0000#36 = .ok (.rsqrttbl 0x0048D140#32) := by decide
theorem test_decode_sin :
    decode 0b0101_1111_1111_1111_1111_1111_1000_0000_0000#36 = .ok (.sin 0xFFFFF800#32) := by decide
theorem test_decode_cos :
    decode 0b0110_1111_1111_1111_1111_1111_1111_1111_1111#36 = .ok (.cos 0xFFFFFFFF#32) := by decide

/-- Every reserved code is refused by name (30_encoding.md R64). -/
theorem test_decode_reserved :
    ∀ k : Fin 9, decode (requestOf (BitVec.ofNat 4 (7 + k.val)) 9#32) =
      .error (.reservedOp (BitVec.ofNat 4 (7 + k.val))) := by decide

/-- A response word of 95_test_vectors.md P1. -/
theorem test_response_word : responseOf 4128#32 6#8 = 0x0000102006#40 := by decide

/-! ## What is not well formed (00_scope.md R8; the first four of 95_test_vectors.md 2.5) -/

theorem test_wf_refuses_angle_of_3_bits : ({ cfg4 with angleBits := 3 } : Config).angleBitsWf = false := by decide
theorem test_wf_refuses_angle_of_33_bits : ({ cfg4 with angleBits := 33 } : Config).angleBitsWf = false := by decide
theorem test_wf_refuses_table_bits_11_of_12 :
    ({ cfg12 with sinTableBits := 11 } : Config).sinTableBitsWf = false := by decide
theorem test_wf_refuses_full_scale_4095 :
    ({ cfg12 with sinTable := sinRise ++ sinTop ++ [4095#16] } : Config).sinTableWf = false := by decide
theorem test_wf_refuses_first_sample_1 :
    ({ cfg4 with sinTable := [1#16, 1567#16, 2896#16, 3784#16, 4096#16] } : Config).sinTableWf = false := by decide
theorem test_wf_refuses_short_and_long_sin_table :
    ({ cfg4 with sinTable := [0#16, 1567#16, 2896#16, 4096#16] } : Config).sinTableWf = false ∧
    ({ cfg4 with sinTable := [0#16, 1567#16, 2896#16, 3784#16, 4096#16, 4096#16] } : Config).sinTableWf = false := by
  decide
theorem test_wf_refuses_rsqrt_table_bits_1_and_25 :
    ({ cfg4 with rsqrtTableBits := 1 } : Config).rsqrtTableBitsWf = false ∧
    ({ cfg4 with rsqrtTableBits := 25 } : Config).rsqrtTableBitsWf = false := by decide
theorem test_wf_refuses_short_rsqrt_table :
    ({ cfg4 with rsqrtTable := [4096#16, 3072#16] } : Config).rsqrtTableWf = false := by decide
theorem test_wf_refuses_tolerance_32 :
    ({ cfg4 with sqrtToleranceBits := 32 } : Config).toleranceWf = false ∧
    ({ cfg4 with rsqrtToleranceBits := 32 } : Config).toleranceWf = false := by decide
theorem test_wf_refuses_cap_256 :
    ({ cfg4 with sqrtMaxIterations := 256 } : Config).iterationsWf = false ∧
    ({ cfg4 with rsqrtMaxIterations := 256 } : Config).iterationsWf = false := by decide
theorem test_wf_refuses_split_with_a_gap_or_outside :
    ({ cfg4 with rsqrtTableSplit := .regions [⟨2 ^ 22, 0, 23⟩] } : Config).splitWf = false ∧
    ({ cfg4 with rsqrtTableSplit := .regions [⟨3 * 2 ^ 22, 0, 21⟩] } : Config).splitWf = false := by decide
theorem test_wf_refuses_reserved_request : Request.wf 0x700000009#36 = false ∧ Request.wf 0x600000009#36 = true := by
  decide
theorem test_wf_accepts : cfg12.wf = true ∧ cfg4.wf = true ∧ cfgSplit.wf = true := by decide
theorem test_ill_formed_refused :
    refusalIn (step { idle4 with cfg := { cfg4 with angleBits := 3 } }) = some .illFormedConfig := by decide

/-! ## Instructions (95_test_vectors.md 2.1 to 2.5) -/

/-- Section 2.1: both ends of each byte the algorithm looks at. -/
theorem test_log2floor :
    answerOf (exec (.log2floor 0#32) idle12) = some (0xFFFFFFFF#32, 0#8) ∧
    answerOf (exec (.log2floor 255#32) idle12) = some (7#32, 0#8) ∧
    answerOf (exec (.log2floor 256#32) idle12) = some (8#32, 0#8) ∧
    answerOf (exec (.log2floor 65535#32) idle12) = some (15#32, 0#8) ∧
    answerOf (exec (.log2floor 0x00012345#32) idle12) = some (16#32, 0#8) ∧
    answerOf (exec (.log2floor 0x7FFFFFFF#32) idle12) = some (30#32, 0#8) ∧
    answerOf (exec (.log2floor 0xFFFFFFFF#32) idle12) = some (31#32, 0#8) := by decide

/-- Section 2.1. -/
theorem test_log2ceil :
    answerOf (exec (.log2ceil 0#32) idle12) = some (0xFFFFFFFF#32, 0#8) ∧
    answerOf (exec (.log2ceil 1#32) idle12) = some (0#32, 0#8) ∧
    answerOf (exec (.log2ceil 5#32) idle12) = some (3#32, 0#8) ∧
    answerOf (exec (.log2ceil 0x80000000#32) idle12) = some (31#32, 0#8) ∧
    answerOf (exec (.log2ceil 0x80000001#32) idle12) = some (32#32, 0#8) := by decide

/-- Section 2.2. -/
theorem test_sqrt :
    answerOf (exec (.sqrt 0#32) idle12) = some (0#32, 0#8) ∧
    answerOf (exec (.sqrt 3#32) idle12) = some (1#32, 0#8) ∧
    answerOf (exec (.sqrt 9#32) idle12) = some (3#32, 1#8) ∧
    answerOf (exec (.sqrt 65535#32) idle12) = some (255#32, 6#8) ∧
    answerOf (exec (.sqrt 0x01000000#32) idle12) = some (4128#32, 6#8) ∧
    answerOf (exec (.sqrt 0x80000000#32) idle12) = some (46336#32, 6#8) ∧
    answerOf (exec (.sqrt 0xFFFFFFFF#32) idle12) = some (65280#32, 6#8) := by decide

/-- Section 2.2, with the iteration cap at 0. -/
theorem test_sqrt_cap_zero :
    answerOf (exec (.sqrt 5#32) { idle12 with cfg := { cfg12 with sqrtMaxIterations := 0 } }) = some (3#32, 0#8) ∧
    answerOf (exec (.sqrt 0x00100000#32) { idle12 with cfg := { cfg12 with sqrtMaxIterations := 0 } }) =
      some (1536#32, 0#8) := by decide

/-- Section 2.3: both regimes at their border, and each step count. -/
theorem test_rsqrt :
    answerOf (exec (.rsqrt 0#32) idle12) = some (0xFFFFFFFF#32, 0#8) ∧
    answerOf (exec (.rsqrt 1#32) idle12) = some (261120#32, 6#8) ∧
    answerOf (exec (.rsqrt 7#32) idle12) = some (98816#32, 6#8) ∧
    answerOf (exec (.rsqrt 4096#32) idle12) = some (4080#32, 6#8) ∧
    answerOf (exec (.rsqrt 8191#32) idle12) = some (2896#32, 6#8) ∧
    answerOf (exec (.rsqrt 8192#32) idle12) = some (2896#32, 6#8) ∧
    answerOf (exec (.rsqrt 10809#32) idle12) = some (2544#32, 6#8) ∧
    answerOf (exec (.rsqrt 0x00400000#32) idle12) = some (127#32, 5#8) ∧
    answerOf (exec (.rsqrt 0xFFFFFFFF#32) idle12) = some (4#32, 2#8) := by decide

/-- Section 2.3, parameter corner cases. -/
theorem test_rsqrt_parameters :
    answerOf (exec (.rsqrt 4096#32) { idle12 with cfg := { cfg12 with rsqrtMaxIterations := 2 } }) =
      some (3840#32, 2#8) ∧
    answerOf (exec (.rsqrt 4096#32) { idle12 with cfg := { cfg12 with rsqrtToleranceBits := 0 } }) =
      some (3072#32, 0#8) := by decide

/-- Section 2.4, truncating division, and the example of program P3. -/
theorem test_rsqrttbl :
    answerOf (exec (.rsqrttbl 0x00400000#32) idle12) = some (4096#32, 0#8) ∧
    answerOf (exec (.rsqrttbl 0x00410000#32) idle12) = some (4089#32, 0#8) ∧
    answerOf (exec (.rsqrttbl 0x0048D140#32) idle12) = some (4026#32, 0#8) ∧
    answerOf (exec (.rsqrttbl 0x00FFFFFF#32) idle12) = some (2561#32, 0#8) := by decide

/-- Section 2.4: floor division, and a refusal outside the domain under `refuse`. -/
theorem test_rsqrttbl_fdiv_and_refuse :
    answerOf (exec (.rsqrttbl 0x00410000#32) { idle12 with cfg := { cfg12 with interpDiv := .fdiv } }) =
      some (4088#32, 0#8) ∧
    refusalIn (exec (.rsqrttbl 0x01000000#32) { idle12 with cfg := { cfg12 with rsqrtOod := .refuse } }) =
      some (.rsqrtTableOutOfDomain 0x01000000#32) ∧
    refusalIn (exec (.rsqrttbl 0x003FFFFF#32) { idle12 with cfg := { cfg12 with rsqrtOod := .refuse } }) =
      some (.rsqrtTableOutOfDomain 0x003FFFFF#32) := by decide

/-- Section 2.5, one operand in each quadrant and at its ends. -/
theorem test_sin :
    sin12 0#32 = some 0 ∧ sin12 100#32 = some 626 ∧ sin12 1023#32 = some 4096 ∧ sin12 1536#32 = some 2896 ∧
    sin12 2049#32 = some (-6) ∧ sin12 2560#32 = some (-2896) ∧ sin12 3072#32 = some (-4096) ∧
    sin12 4095#32 = some (-6) ∧ sin12 4096#32 = some 0 ∧ sin12 0xFFFFFFF8#32 = some (-51) := by decide

/-- Section 2.5 for `N = 4`, `TB = 2`, and for `N = 32`, `TB = 6`, whose blend needs more than 32 bits. -/
theorem test_sin_other_builds :
    answerOf (exec (.sin 1#32) idle4) = some (1567#32, 0#8) ∧
    answerOf (exec (.sin 15#32) idle4) = some (BitVec.ofInt 32 (-1567), 0#8) ∧
    answerOf (exec (.sin 0xC0000000#32) { idle12 with cfg := { cfg12 with angleBits := 32 } }) =
      some (0xFFFFF000#32, 0#8) := by decide

/-- Section 2.5 and program P2. -/
theorem test_cos :
    cos12 0#32 = some 4096 ∧ cos12 100#32 = some 4048 ∧ cos12 1025#32 = some (-6) ∧ cos12 2048#32 = some (-4096) ∧
    cos12 3072#32 = some 0 ∧ cos12 3080#32 = some 51 ∧ cos12 0xFFFFFFFF#32 = some 4096 := by decide

/-- `Lerp` alone (section 2.4). -/
theorem test_lerp :
    lerp .tdiv 100 200 8 16 = 150 ∧ lerp .tdiv 200 100 8 16 = 151 ∧ lerp .fdiv 200 100 8 16 = 150 ∧
    lerp .tdiv 200 100 16 16 = 101 ∧ lerp .fdiv 200 100 16 16 = 100 := by decide

/-- The final bracket of `RSQRT 10809` (section 1, S15). -/
theorem test_rsqrt_bracket : (rsqrtWork cfg12 10809#32).lower = 2528 ∧ (rsqrtWork cfg12 10809#32).upper = 2560 := by
  decide

/-! ## Protocol (95_test_vectors.md 2.6) -/

/-- T1. -/
theorem test_read_in_idle : step { idle4 with pending := [.read] } = .fault .readBeforeResponse := by rfl

/-- T2: OP, A, PHASE. -/
theorem test_issue : step { idle4 with pending := [.issue 0x200000009#36] } = .next { busy9 with pending := [] } := by
  rfl

/-- T3, T4: the host holds, and nothing of the block changes. -/
theorem test_holds :
    step { busy9 with pending := [.read], turns := [.host] } =
      .next { busy9 with pending := [.read], held := some .readWhileBusy } ∧
    step { busy9 with pending := [.issue 0x000000008#36], turns := [.host] } =
      .next { busy9 with pending := [.issue 0x000000008#36], held := some .issueWhileBusy } := by
  exact ⟨rfl, rfl⟩

/-- T5. -/
theorem test_complete : answerOf (step busy9) = some (3#32, 1#8) := by decide

/-- T6: the pair, again and again. -/
theorem test_read : step { done9 with pending := [.read, .read] } =
    .next { done9 with pending := [.read], replies := [.response 3#32 1#8] } := by rfl

/-- T7. -/
theorem test_reserved_issue :
    refusalIn (step { done9 with pending := [.issue 0x700000000#36] }) = some (.reservedOp 0x7#4) := by decide

/-- Section 2.4, out of domain under `refuse`: Issue takes it and Complete refuses it (10_state.md R27, R29). -/
theorem test_out_of_domain_at_complete :
    step { idle4 with cfg := cfgRefuse, pending := [.issue 0x400000009#36] } = .next busyOut ∧
    step busyOut = .refused (.rsqrtTableOutOfDomain 9#32) := by exact ⟨rfl, rfl⟩

/-- The same in a build that refuses at Issue (60_exceptions.md R147), where `draw` and an operand of the domain are
taken. -/
theorem test_out_of_domain_at_issue :
    refusalIn (step { idle4 with cfg := cfgRefuseAtIssue, pending := [.issue 0x401000000#36] }) =
      some (.rsqrtTableOutOfDomain 0x01000000#32) ∧
    refusalIn (step { idle4 with cfg := cfgRefuseAtIssue, pending := [.issue 0x400FFFFFF#36] }) = none ∧
    refusalIn (step { idle4 with cfg := { cfg4 with oodRefusedAt := .issue }, pending := [.issue 0x401000000#36] }) =
      none := by decide

/-- T8. -/
theorem test_reset_in_busy :
    step { busy9 with turns := [.reset], pending := [.read], held := some .readWhileBusy } =
      .next { idle4 with pending := [.read] } := by rfl

/-- T9: the old pair is no longer readable. -/
theorem test_issue_after_done :
    step { done9 with pending := [.issue 0x300000000#36, .read] } =
      .next { done9 with op := 0x3#4, a := 0#32, phase := .busy, pending := [.read] } := by rfl

/-- The host's view: each row of the table decodes and runs as the first request after reset. -/
theorem test_first_after_reset :
    answerOf (step (State.reset.withFetchWord 36 0x201000000)) = some (4128#32, 6#8) ∧
    decodeTableWord 36 0x201000000 = some (.sqrt 0x01000000#32) ∧ decodeTableWord 36 0x700000000 = none := by decide

/-! ## Witnesses: every statement's hypotheses are met together, clause by clause at the ends of its range -/

theorem witness_DecodeEncodeAgree :
    decode 0x600000000#36 = .ok (.cos 0#32) ∧ (requestOp 0x6FFFFFFFF#36).toNat ≤ 6 ∧
    7 ≤ (requestOp 0x700000000#36).toNat := by decide

theorem witness_OpcodeRowsReadTheWord :
    ∃ row ∈ opcodeRows, row.matches 0x6FFFFFFFF#36 = true ∧ row.mnemonic = "COS" := by decide

theorem witness_TableWordDecodes : 2 ^ 36 ≤ 2 ^ 36 ∧ decodeTableWord 36 (2 ^ 36 - 1) = none := by decide

theorem witness_Log2TableEntries :
    1 ≤ 1 ∧ 1 ≤ 255 ∧ readTable log2Table 1 = some 0 ∧ readTable log2Table 255 = some 7 := by decide

theorem witness_Log2Exactness : (0#32 : Word) = 0#32 ∧ (1#32 : Word) ≠ 0#32 ∧ (0xFFFFFFFF#32 : Word) ≠ 0#32 ∧
    answerOf (exec (.log2floor 1#32) idle4) = some (0#32, 0#8) ∧ (0#32 : Word).toNat < 1 := by decide

theorem witness_Log2AgreeAtPowersOfTwo : (1#32 : Word) ≠ 0#32 ∧ (1#32 : Word).toNat = 2 ^ 0 ∧ (3#32 : Word) ≠ 0#32 ∧
    (0#32 : Word) = 0#32 := by decide

/-- The three lines of 41_sqrt.md R94 at their borders, for the default parameters and for a small cap. -/
theorem witness_BisectStepCount : bisectSteps 6 10 5 = 5 ∧ bisectSteps 6 10 6 = 5 ∧ bisectSteps 6 10 7 = 6 ∧
    bisectSteps 0 10 0 = 0 ∧ bisectSteps 6 3 17 = 3 := by decide

theorem witness_SqrtSeedHoldsTheRoot : (1#32 : Word) ≠ 0#32 ∧ sqrtSeedLower 1#32 = 1 ∧
    sqrtSeedLower 0xFFFFFFFF#32 = 2 ^ 15 := by decide

theorem witness_SqrtBracketHoldsTheRoot : (9#32 : Word) ≠ 0#32 ∧
    (⟨3, 4, 1, 1⟩ : Work) = bisectLoop cfg4.sqrtMaxIterations (sqrtTooBig 9#32) 1
      (bisectSeed (sqrtSeedLower 9#32) (2 * sqrtSeedLower 9#32) cfg4.sqrtToleranceBits) := by decide

theorem witness_SqrtProductsFit32Bits : (0xFFFFFFFF#32 : Word) ≠ 0#32 ∧
    (⟨32768, 65536, 513, 0⟩ : Work) = bisectLoop cfg4.sqrtMaxIterations (sqrtTooBig 0xFFFFFFFF#32) 0
      (bisectSeed (sqrtSeedLower 0xFFFFFFFF#32) (2 * sqrtSeedLower 0xFFFFFFFF#32) cfg4.sqrtToleranceBits) ∧
    bisectGoing cfg4.sqrtMaxIterations ⟨32768, 65536, 513, 0⟩ = true := by decide

theorem witness_SqrtClosedForm : (0#32 : Word) = 0#32 ∧ (0x01000000#32 : Word) ≠ 0#32 ∧
    12 = Nat.log 2 (0x01000000#32 : Word).toNat / 2 ∧
    6 = bisectSteps idle4.cfg.sqrtToleranceBits idle4.cfg.sqrtMaxIterations 12 ∧ 64 = 2 ^ (12 - 6) := by
  refine ⟨rfl, by decide, ?_, by decide, rfl⟩
  norm_num

theorem witness_SqrtAccuracy : (0xFFFFFFFF#32 : Word) ≠ 0#32 ∧ idle12.cfg.sqrtToleranceBits = 6 ∧
    idle12.cfg.sqrtMaxIterations = 10 := by decide

/-- One operand of each line of 42_rsqrt.md R103. -/
theorem witness_RsqrtStepCount : (0x003FFFFF#32 : Word) ≠ 0#32 ∧ 21 = Nat.log 2 (0x003FFFFF#32 : Word).toNat ∧
    22 = Nat.log 2 (0x00400000#32 : Word).toNat ∧ 23 = Nat.log 2 (0x00FFFFFF#32 : Word).toNat ∧
    24 = Nat.log 2 (0x01000000#32 : Word).toNat ∧ idle4.cfg.rsqrtToleranceBits = 6 ∧
    idle4.cfg.rsqrtMaxIterations = 10 := by
  refine ⟨by decide, ?_, ?_, ?_, ?_, rfl, rfl⟩ <;> norm_num

theorem witness_RsqrtSeedHoldsTheTarget : (1#32 : Word) ≠ 0#32 ∧ 0 = Nat.log 2 (1#32 : Word).toNat ∧
    31 = Nat.log 2 (0xFFFFFFFF#32 : Word).toNat := by
  refine ⟨by decide, ?_, ?_⟩ <;> norm_num

/-- The last operand of the low regime and the first of the high one. -/
theorem witness_RsqrtResult :
    ((8191#32 : Word) ≠ 0#32 ∧ 12 = Nat.log 2 (8191#32 : Word).toNat ∧ 11 = (35 - 12) / 2 ∧
      6 = bisectSteps idle4.cfg.rsqrtToleranceBits idle4.cfg.rsqrtMaxIterations 11 ∧ 32 = 2 ^ (11 - 6) ∧
      ∀ g, g / 8 * (g / 8) * (8191#32 : Word).toNat =
        if 13 ≤ 12 then g * g * ((8191#32 : Word).toNat / 64) else g / 8 * (g / 8) * (8191#32 : Word).toNat) ∧
    ((8192#32 : Word) ≠ 0#32 ∧ 13 = Nat.log 2 (8192#32 : Word).toNat ∧ 11 = (35 - 13) / 2) := by
  refine ⟨⟨by decide, by norm_num, rfl, by decide, rfl, fun g => rfl⟩, by decide, by norm_num, rfl⟩

theorem witness_RsqrtProductsFit32Bits :
    ((8192#32 : Word) ≠ 0#32 ∧ 13 = Nat.log 2 (8192#32 : Word).toNat ∧
      (⟨2048, 4096, 33, 0⟩ : Work) = bisectLoop cfg4.rsqrtMaxIterations (rsqrtTooBig 8192#32) 0
        (bisectSeed (rsqrtSeedLower 13) (rsqrtSeedUpper 13) cfg4.rsqrtToleranceBits) ∧ 13 ≤ 13) ∧
    (12 = Nat.log 2 (8191#32 : Word).toNat ∧
      (⟨2048, 4096, 33, 0⟩ : Work) = bisectLoop cfg4.rsqrtMaxIterations (rsqrtTooBig 8191#32) 0
        (bisectSeed (rsqrtSeedLower 12) (rsqrtSeedUpper 12) cfg4.rsqrtToleranceBits) ∧ 12 < 13) ∧
    bisectGoing cfg4.rsqrtMaxIterations ⟨2048, 4096, 33, 0⟩ = true := by
  refine ⟨⟨by decide, by norm_num, by decide, by decide⟩, ⟨by norm_num, by decide, by decide⟩, by decide⟩

theorem witness_RsqrtBracketMayMissTheTarget : cfg4.rsqrtToleranceBits = 6 ∧ cfg4.rsqrtMaxIterations = 10 := by decide

theorem witness_LerpEnds : ((100 : Int) ≤ 200 ∨ 4 = 0) ∧ ((200 : Int) ≤ 100 ∨ 0 = 0) ∧ (100 : Int) < 200 ∧ 1 ≤ 1 := by
  decide

theorem witness_RsqrtTblIndexBounds : cfg4.rsqrtTableSplit = .default ∧ 2 ≤ cfg4.rsqrtTableBits ∧
    cfg4.rsqrtTableBits ≤ 24 ∧ 2 ^ 22 ≤ (0x00FFFFFF#32 : Word).toNat ∧ (0x00FFFFFF#32 : Word).toNat < 2 ^ 24 ∧
    2 ^ 22 ≤ (0x00400000#32 : Word).toNat ∧ cfg4.rsqrtTable.length = 2 ^ cfg4.rsqrtTableBits + 1 := by decide

theorem witness_RsqrtTblResult : idle4.cfg.wf = true ∧ idle4.cfg.rsqrtTableSplit = .default ∧
    (0x00FFFFFF#32 : Word).toNat = 2 ^ 22 + 12582911 ∧ (0x00FFFFFF#32 : Word).toNat < 2 ^ 24 ∧
    22 = 24 - idle4.cfg.rsqrtTableBits ∧ idle4.cfg.interpDiv = .tdiv ∧
    ({ cfg4 with interpDiv := .fdiv } : Config).wf = true ∧ ({ cfg4 with interpDiv := .fdiv } : Config).interpDiv = .fdiv := by
  decide

/-- Under the default split and under another. -/
theorem witness_RsqrtTblBetweenNeighbours : idle4.cfg.wf = true ∧ cfgSplit.wf = true ∧
    2 ^ 22 ≤ (0x00400000#32 : Word).toNat ∧ (0x00FFFFFF#32 : Word).toNat < 2 ^ 24 := by decide

/-- The default split, and the last operand of a split of one stretch. -/
theorem witness_RsqrtTblBlendsAtTheSplitPoint : idle4.cfg.wf = true ∧ cfgSplit.wf = true ∧
    2 ^ 22 ≤ (0x00FFFFFF#32 : Word).toNat ∧ (0x00FFFFFF#32 : Word).toNat < 2 ^ 24 ∧
    cfgSplit.rsqrtTableSplit = .regions ([] ++ ⟨3 * 2 ^ 22, 2 ^ 23, 23⟩ :: []) ∧
    (0x00FFFFFF#32 : Word).toNat = 2 ^ 22 + (([] : List SplitRegion).map SplitRegion.size).sum + 12582911 ∧
    12582911 < 3 * 2 ^ 22 := by decide

theorem witness_RsqrtTblOutOfDomain : (0x003FFFFF#32 : Word).toNat < 2 ^ 22 ∧ 2 ^ 24 ≤ (0x01000000#32 : Word).toNat ∧
    idle4.cfg.rsqrtOod = .draw ∧ cfgRefuse.rsqrtOod = .refuse := by decide

/-- The first and last angle of a direct quarter, and of a reflected one. -/
theorem witness_SinIndexBounds : cfg12.wf = true ∧ 4095 < 2 ^ cfg12.angleBits ∧
    (angleFields cfg12 0).q = 0 ∧ 0 = (angleFields cfg12 0).i ∧ 0 = (angleFields cfg12 0).f ∧
    (angleFields cfg12 1023).q = 0 ∧ 63 = (angleFields cfg12 1023).i ∧ 15 = (angleFields cfg12 1023).f ∧
    (angleFields cfg12 1024).q = 1 ∧ 0 = (angleFields cfg12 1024).i ∧ 0 = (angleFields cfg12 1024).f ∧
    (angleFields cfg12 4095).q = 1 ∧ 63 = (angleFields cfg12 4095).i ∧ 15 = (angleFields cfg12 4095).f := by decide

theorem witness_SinResult : idle12.cfg.wf = true ∧ 4 = idle12.cfg.angleBits - 2 - idle12.cfg.sinTableBits ∧
    4095 = (0xFFFFFFFF#32 : Word).toNat % 2 ^ idle12.cfg.angleBits ∧ 1 = 4095 / 2 ^ (idle12.cfg.angleBits - 1) ∧
    1 = 4095 / 2 ^ (idle12.cfg.angleBits - 2) % 2 ∧ 63 = 4095 / 2 ^ 4 % 2 ^ idle12.cfg.sinTableBits ∧
    15 = 4095 % 2 ^ 4 ∧ 0 = (if 1 = 0 then 63 else 2 ^ idle12.cfg.sinTableBits - 1 - 63) ∧
    1 = (if 1 = 0 then 15 else 2 ^ 4 - 15) := by decide

theorem witness_SinIsMirroredInterpolation : idle4.cfg.wf = true ∧ idle4.cfg.sinTableRises ∧
    0 = idle4.cfg.angleBits - 2 - idle4.cfg.sinTableBits ∧ 4 = (4#32 : Word).toNat % 2 ^ idle4.cfg.angleBits ∧
    4 = mirroredPosition idle4.cfg.angleBits 4 ∧
    4096 = ((idle4.cfg.sinTable[4 / 2 ^ 0 + 1]?).getD 4096#16).toNat := by decide

theorem witness_SinQuadrantPoints : idle4.cfg.wf = true ∧ idle4.cfg.sinTableRises ∧ 4 = idle4.cfg.angleBits := by decide

theorem witness_SinPeriodic : idle4.cfg.wf = true ∧
    (5#32 : Word).toNat % 2 ^ idle4.cfg.angleBits = (0xFFFFFFF5#32 : Word).toNat % 2 ^ idle4.cfg.angleBits := by decide

theorem witness_SinOddSymmetry : idle4.cfg.wf = true ∧ idle4.cfg.sinTableRises := by decide

theorem witness_SinCosRange : idle4.cfg.wf = true ∧ idle4.cfg.sinTableRises := by decide

/-- With and without the wrap of the sum. -/
theorem witness_CosResult : idle4.cfg.wf = true ∧
    (3#32 : Word).toNat = ((15#32 : Word).toNat % 2 ^ idle4.cfg.angleBits + 2 ^ (idle4.cfg.angleBits - 2)) %
      2 ^ idle4.cfg.angleBits ∧
    (4#32 : Word).toNat = ((0#32 : Word).toNat % 2 ^ idle4.cfg.angleBits + 2 ^ (idle4.cfg.angleBits - 2)) %
      2 ^ idle4.cfg.angleBits := by decide

theorem witness_CompleteFrame : ∃ t, exec (.sqrt 9#32) busy9 = .next t := ⟨_, rfl⟩

theorem witness_RespondStoresTheAnswer : busy9.cfg.wf = true ∧ eval busy9.cfg (.sqrt 9#32) = some ⟨3, 1⟩ ∧
    eval idle4.cfg (.sin 15#32) = some ⟨-1567, 0⟩ := by decide

theorem witness_SameRequestSameResponse : idle4.cfg = done9.cfg ∧ 2 ^ 22 ≤ (0x00400000#32 : Word).toNat ∧
    (0x00400000#32 : Word).toNat < 2 ^ 24 ∧ answerOf (exec (.rsqrttbl 0x00400000#32) idle4) = some (4096#32, 0#8) ∧
    answerOf (exec (.rsqrttbl 0x00400000#32) done9) = some (4096#32, 0#8) := by decide

/-- RSQRTTBL both ways it is answered: in its domain, and outside it under `draw`. -/
theorem witness_StepsPerRequest : idle4.cfg.wf = true ∧
    Instr.cos 5#32 ∈ [Instr.log2floor 5#32, .log2ceil 5#32, .rsqrttbl 5#32, .sin 5#32, .cos 5#32] ∧
    requestResponds idle4.cfg (.cos 5#32) = true ∧ requestResponds idle4.cfg (.rsqrttbl 5#32) = true ∧
    requestResponds cfgRefuse (.rsqrttbl 0x00400000#32) = true ∧
    idle4.cfg.sqrtMaxIterations = 10 ∧ idle4.cfg.sqrtToleranceBits = 6 ∧ idle4.cfg.rsqrtMaxIterations = 10 ∧
    idle4.cfg.rsqrtToleranceBits = 6 := by decide

theorem witness_WellFormedConfigurations : cfg4.rsqrtTableSplit = .default ∧ cfg4.wf = true ∧ cfgSplit.wf = true ∧
    ({ cfg4 with angleBits := 3 } : Config).wf = false := by decide

theorem witness_ConfigurationIsFixed : ∃ t, step busy9 = .next t ∧ t.phase = .done := ⟨_, rfl, rfl⟩

/-- The block's turn listed, and no turn listed. -/
theorem witness_StepRunsTheRequest : busy9.cfg.wf = true ∧ busy9.phase = .busy ∧
    decode (requestOf busy9.op busy9.a) = .ok (.sqrt 9#32) ∧ busy9.turns = [] ∧
    ({ busy9 with turns := [.block] } : State).turns = .block :: [] := by decide

theorem witness_FetchedWordRuns : State.reset.cfg.wf = true ∧ idle4.cfg.wf = true := by decide

/-- Both sides of the border of the reserved codes, a Read after the Issue, and the host's turn listed and not. -/
theorem witness_IssueEffect : done9.cfg.wf = true ∧ done9.phase ≠ .busy ∧
    (nextTurn { done9 with pending := [.issue 0x600000000#36, .read] }).1 = .host ∧
    (nextTurn { done9 with turns := [.host, .host], pending := [.issue 0x600000000#36, .read] }).1 = .host ∧
    (nextTurn { done9 with op := 0x6#4, a := 0#32, phase := .busy, turns := [.host], pending := [.read] }).1 = .host ∧
    ({ done9 with turns := [.host, .host], pending := [.issue 0x600000000#36, .read] } : State).pending =
      .issue 0x600000000#36 :: [.read] ∧
    7 ≤ (requestOp 0x700000000#36).toNat ∧ decode 0x600000000#36 = .ok (.cos 0#32) ∧
    requestResponds cfg4 (.cos 0#32) = true ∧ decode 0x401000000#36 = .ok (.rsqrttbl 0x01000000#32) ∧
    2 ^ 24 ≤ (0x01000000#32 : Word).toNat ∧ decode 0x4003FFFFF#36 = .ok (.rsqrttbl 0x003FFFFF#32) ∧
    (0x003FFFFF#32 : Word).toNat < 2 ^ 22 ∧ cfgRefuseAtIssue.wf = true ∧ cfgRefuseAtIssue.rsqrtOod = .refuse ∧
    cfgRefuseAtIssue.oodRefusedAt = .issue ∧ cfgRefuse.wf = true ∧ cfgRefuse.rsqrtOod = .refuse ∧
    cfgRefuse.oodRefusedAt = .complete ∧ requestResponds cfgRefuse (.rsqrttbl 0x003FFFFF#32) = false ∧
    requestResponds cfgRefuseAtIssue (.cos 0#32) = true ∧
    (nextTurn { done9 with cfg := cfgRefuseAtIssue, pending := [.issue 0x401000000#36] }).1 = .host ∧
    (nextTurn { done9 with cfg := cfgRefuse, pending := [.issue 0x4003FFFFF#36, .read] }).1 = .host := by decide

/-- The request that waits: one that is answered, and one that only a build that refuses at Complete takes. -/
theorem witness_IssueHoldsWhileBusy : busy9.cfg.wf = true ∧ busy9.phase = .busy ∧
    ({ busy9 with pending := [.issue 0x000000008#36], turns := [.host, .block, .host] } : State).pending =
      .issue 0x000000008#36 :: [] ∧
    decode (requestOf busy9.op busy9.a) = .ok (.sqrt 9#32) ∧ requestResponds busy9.cfg (.sqrt 9#32) = true ∧
    ({ busy9 with pending := [.issue 0x000000008#36], turns := [.host, .block, .host] } : State).turns =
      .host :: .block :: .host :: [] ∧ decode 0x000000008#36 = .ok (.log2floor 8#32) ∧
    requestResponds busy9.cfg (.log2floor 8#32) = true ∧ decode 0x400000009#36 = .ok (.rsqrttbl 9#32) ∧
    requestResponds cfgRefuse (.rsqrttbl 9#32) = false ∧ cfgRefuse.oodRefusedAt = .complete ∧ cfgRefuse.wf = true ∧
    requestResponds cfgRefuse (.sqrt 9#32) = true := by decide

theorem witness_ReservedIssueHoldsFirst : busy9.cfg.wf = true ∧ busy9.phase = .busy ∧
    ({ busy9 with pending := [.issue 0x700000000#36], turns := [.host, .block, .host] } : State).pending =
      .issue 0x700000000#36 :: [] ∧
    decode (requestOf busy9.op busy9.a) = .ok (.sqrt 9#32) ∧ requestResponds busy9.cfg (.sqrt 9#32) = true ∧
    ({ busy9 with pending := [.issue 0x700000000#36], turns := [.host, .block, .host] } : State).turns =
      .host :: .block :: .host :: [] ∧ 7 ≤ (requestOp 0x700000000#36).toNat ∧
    decode 0x401000000#36 = .ok (.rsqrttbl 0x01000000#32) ∧ 2 ^ 24 ≤ (0x01000000#32 : Word).toNat ∧
    cfgRefuseAtIssue.wf = true ∧ cfgRefuseAtIssue.rsqrtOod = .refuse ∧ cfgRefuseAtIssue.oodRefusedAt = .issue ∧
    requestResponds cfgRefuseAtIssue (.sqrt 9#32) = true := by decide

/-- A DONE block with the response of its request meets the invariant. -/
theorem done9_inv : done9.Inv where
  busy_taken := by intro h; cases h
  done_response := by
    intro _
    refine ⟨.sqrt 9#32, by decide, ?_⟩
    rw [State.holdsResponse, show eval done9.cfg (.sqrt 9#32) = some ⟨3, 1⟩ by decide]
    exact ⟨by decide, by decide⟩
  held_busy := by intro h; exact absurd rfl h
  work_bounded := ⟨by decide, by decide, by decide, by decide⟩

/-- A BUSY block with a request that responds meets the invariant. -/
theorem busy9_inv : busy9.Inv where
  busy_taken := fun _ => ⟨.sqrt 9#32, by decide, rfl⟩
  done_response := by intro h; cases h
  held_busy := fun _ => rfl
  work_bounded := ⟨by decide, by decide, by decide, by decide⟩

/-- A BUSY block with a request that only Complete refuses meets it too. -/
theorem busyOut_inv : busyOut.Inv where
  busy_taken := fun _ => ⟨.rsqrttbl 9#32, by decide, rfl⟩
  done_response := by intro h; cases h
  held_busy := fun _ => rfl
  work_bounded := ⟨by decide, by decide, by decide, by decide⟩

/-- An IDLE block meets the invariant. -/
theorem idle4_inv : idle4.Inv where
  busy_taken := by intro h; cases h
  done_response := by intro h; cases h
  held_busy := by intro h; exact absurd rfl h
  work_bounded := ⟨by decide, by decide, by decide, by decide⟩

/-- DONE with the invariant and no turn listed, BUSY with the host's turn listed and Complete after it, and IDLE. -/
theorem witness_ReadEffect : idle4.cfg.wf = true ∧ (nextTurn { done9 with pending := [.read, .read] }).1 = .host ∧
    (nextTurn { done9 with pending := [.read], replies := [.response 3#32 1#8] }).1 = .host ∧
    done9.phase = .done ∧ done9.Inv ∧ busy9.phase = .busy ∧ idle4.phase = .idle ∧
    (nextTurn idle4).1 = .host ∧ (nextTurn { busy9 with turns := [.host], pending := [.read] }).1 = .host ∧
    (nextTurn { busy9 with pending := [.read], held := some .readWhileBusy }).1 = .block ∧
    decode (requestOf busy9.op busy9.a) = .ok (.sqrt 9#32) ∧ requestResponds busy9.cfg (.sqrt 9#32) = true :=
  ⟨by decide, rfl, rfl, rfl, done9_inv, rfl, rfl, rfl, rfl, rfl, by decide, by decide⟩

theorem witness_ReadNeverReturnsAnOlderResponse :
    done9.Inv ∧ busy9.Inv ∧ (∃ t, step done9 = .next t) ∧ ∃ t, step busy9 = .next t :=
  ⟨done9_inv, busy9_inv, ⟨_, rfl⟩, ⟨_, rfl⟩⟩

/-- In BUSY with the host's turn listed, in IDLE with none. -/
theorem witness_ObserveEffect : busy9.cfg.wf = true ∧
    (nextTurn { busy9 with turns := [.host], pending := [.observe] }).1 = .host ∧
    (nextTurn { idle4 with pending := [.observe] }).1 = .host := by decide

/-- With a Read and with an Issue still to come, and the host next. -/
theorem witness_ResetEffect : busy9.cfg.wf = true ∧
    ({ busy9 with turns := [.reset], pending := [.read] } : State).turns = .reset :: [] ∧
    (nextTurn { idle4 with pending := [.read] }).1 = .host ∧
    ({ busy9 with turns := [.reset], pending := [.read] } : State).pending = .read :: [] ∧
    ({ busy9 with turns := [.reset], pending := [.issue 0x600000000#36] } : State).pending =
      .issue 0x600000000#36 :: [] ∧ decode 0x600000000#36 = .ok (.cos 0#32) ∧
    requestResponds busy9.cfg (.cos 0#32) = true ∧ decode 0x400000009#36 = .ok (.rsqrttbl 9#32) ∧
    requestResponds cfgRefuse (.rsqrttbl 9#32) = false ∧ cfgRefuse.oodRefusedAt = .complete ∧
    cfgRefuse.wf = true := by decide

/-- An Issue that changes OP, A and PHASE, and a Complete that changes VALUE, ITERS and PHASE. -/
theorem witness_WhoWritesWhichRegister :
    (∃ t, step { idle4 with pending := [.issue 0x200000009#36] } = .next t ∧ t.op ≠ idle4.op ∧ t.a ≠ idle4.a ∧
      t.phase ≠ idle4.phase) ∧
    (∃ t, step busy9 = .next t ∧ t.value ≠ busy9.value ∧ t.iters ≠ busy9.iters ∧ t.phase ≠ busy9.phase) ∧
    ∃ t, step { busy9 with turns := [.reset] } = .next t ∧ t.op ≠ busy9.op ∧ t.phase = .idle :=
  ⟨⟨_, rfl, by decide, by decide, by decide⟩, ⟨_, rfl, by decide, by decide, by decide⟩, ⟨_, rfl, by decide, rfl⟩⟩

theorem witness_StepKeepsTheInvariant :
    busy9.Inv ∧ done9.Inv ∧ idle4.Inv ∧ (∃ t, step busy9 = .next t) ∧ (∃ t, step done9 = .next t) ∧
    ∃ t, step idle4 = .next t :=
  ⟨busy9_inv, done9_inv, idle4_inv, ⟨_, rfl⟩, ⟨_, rfl⟩, ⟨_, rfl⟩⟩

/-- Each stop of 60_exceptions.md R142 is reached from a state that meets the invariant, RSQRTTBL's at either point. -/
theorem witness_OnlyTheseStops : idle4.Inv ∧ done9.Inv ∧ busyOut.Inv ∧
    step { idle4 with pending := [.read] } = .fault .readBeforeResponse ∧
    refusalIn (step { done9 with pending := [.issue 0xF00000000#36] }) = some (.reservedOp 0xF#4) ∧
    refusalIn (step { idle4 with cfg := { cfg4 with angleBits := 3 } }) = some .illFormedConfig ∧
    refusalIn (step { idle4 with cfg := cfgRefuseAtIssue, pending := [.issue 0x400000009#36] }) =
      some (.rsqrtTableOutOfDomain 9#32) ∧
    requestOp 0x400000009#36 = 0x4#4 ∧ (requestOperand 0x400000009#36).toNat < 2 ^ 22 ∧
    refusalIn (step busyOut) = some (.rsqrtTableOutOfDomain 9#32) ∧ (nextTurn busyOut).1 = .block :=
  ⟨idle4_inv, done9_inv, busyOut_inv, rfl, by decide, by decide, by decide, by decide, by decide, by decide, rfl⟩

/-- A refused Issue, a refused Complete, and the block's turn in BUSY, listed or not, in a build that refuses at Issue
and with an answered request in one that does not. -/
theorem witness_NothingIsLeftHalfDone : idle4.Inv ∧ idle4.cfg.wf = true ∧
    step { idle4 with pending := [.issue 0x700000000#36] } = .refused (.reservedOp 0x7#4) ∧
    busyOut.Inv ∧ busyOut.cfg.wf = true ∧ step busyOut = .refused (.rsqrtTableOutOfDomain 9#32) ∧
    busyOut.cfg.oodRefusedAt = .complete ∧
    busy9.Inv ∧ busy9.cfg.wf = true ∧ busy9.phase = .busy ∧ (nextTurn busy9).1 = .block ∧
    (nextTurn { busy9 with turns := [.block] }).1 = .block ∧
    decode (requestOf busy9.op busy9.a) = .ok (.sqrt 9#32) ∧ requestResponds busy9.cfg (.sqrt 9#32) = true ∧
    ({ busy9 with cfg := cfgRefuseAtIssue } : State).Inv ∧ cfgRefuseAtIssue.wf = true ∧
    cfgRefuseAtIssue.oodRefusedAt = .issue :=
  ⟨idle4_inv, by decide, rfl, busyOut_inv, by decide, rfl, rfl, busy9_inv, by decide, rfl, rfl, rfl, by decide, by decide,
    ⟨fun _ => ⟨.sqrt 9#32, by decide, rfl⟩, (by intro h; cases h), fun _ => rfl, busy9_inv.work_bounded⟩, by decide, rfl⟩

/-- A host that issues, reads twice and looks at PHASE. -/
theorem witness_DisciplinedHostIsSafe :
    idle4.cfg.wf = true ∧ ({ idle4 with pending := [.issue 0x200000009#36, .read, .read, .observe] } : State).Inv ∧
    ({ idle4 with pending := [.issue 0x200000009#36, .read, .read, .observe] } : State).HostDisciplined :=
  ⟨by decide, ⟨idle4_inv.busy_taken, idle4_inv.done_response, idle4_inv.held_busy, idle4_inv.work_bounded⟩,
    ⟨by decide, (by intro h; cases h), fun _ => rfl, by decide⟩⟩

/-- A listed host turn, then none: the block still completes. -/
theorem witness_BusyBlockCompletes : ({ busy9 with turns := [.host] } : State).cfg.wf = true ∧
    ({ busy9 with turns := [.host] } : State).phase = .busy ∧
    decode (requestOf busy9.op busy9.a) = .ok (.sqrt 9#32) ∧ requestResponds busy9.cfg (.sqrt 9#32) = true ∧
    Turn.reset ∉ ({ busy9 with turns := [.host] } : State).turns := by decide

theorem witness_WorkingRegistersAreHidden :
    (∃ t, step busy9 = .next t) ∧ step { idle4 with pending := [.read] } = .fault .readBeforeResponse ∧
    step { idle4 with pending := [.issue 0x700000000#36] } = .refused (.reservedOp 0x7#4) :=
  ⟨⟨_, rfl⟩, rfl, rfl⟩

end Sys2Proof.Tests
end

section
/-! PROOFS. Well-formed configurations, and the answers they give every request: every table read is inside its table,
and every answer fits its registers (00_scope.md R8, 10_state.md R31). -/

namespace Sys2Proof

/-! ## What a well-formed configuration promises -/

/-- The checks of 00_scope.md R8, one by one. -/
theorem Config.wf_iff (c : Config) : c.wf = true ↔
    (4 ≤ c.angleBits ∧ c.angleBits ≤ 32) ∧ c.sinTableBits + 2 ≤ c.angleBits ∧
    (2 ≤ c.rsqrtTableBits ∧ c.rsqrtTableBits ≤ 24) ∧
    (c.sqrtToleranceBits ≤ 31 ∧ c.rsqrtToleranceBits ≤ 31) ∧
    (c.sqrtMaxIterations ≤ 255 ∧ c.rsqrtMaxIterations ≤ 255) ∧
    (c.sinTable.length = 2 ^ c.sinTableBits + 1 ∧ c.sinTable[0]? = some 0#16 ∧
      c.sinTable[2 ^ c.sinTableBits]? = some 4096#16) ∧
    c.rsqrtTable.length = 2 ^ c.rsqrtTableBits + 1 ∧ c.splitWf = true := by
  simp only [Config.wf, Config.angleBitsWf, Config.sinTableBitsWf, Config.rsqrtTableBitsWf, Config.toleranceWf,
    Config.iterationsWf, Config.sinTableWf, Config.rsqrtTableWf, Bool.and_eq_true, decide_eq_true_eq,
    hasEntries_iff_length, and_assoc]

theorem Config.iterations_le_of_wf {c : Config} (h : c.wf = true) :
    c.sqrtMaxIterations ≤ 255 ∧ c.rsqrtMaxIterations ≤ 255 := by
  obtain ⟨-, -, -, -, hk, -⟩ := c.wf_iff.1 h
  exact hk

theorem Config.sinTable_length_of_wf {c : Config} (h : c.wf = true) :
    c.sinTable.length = 2 ^ c.sinTableBits + 1 := by
  obtain ⟨-, -, -, -, -, ⟨hl, -⟩, -⟩ := c.wf_iff.1 h
  exact hl

theorem Config.rsqrtTable_length_of_wf {c : Config} (h : c.wf = true) :
    c.rsqrtTable.length = 2 ^ c.rsqrtTableBits + 1 := by
  obtain ⟨-, -, -, -, -, -, hl, -⟩ := c.wf_iff.1 h
  exact hl

/-! ## Encoding and decoding of an instruction -/

@[simp] theorem decodeFields_opcode_operand (i : Instr) : decodeFields i.opcode i.operand = .ok i := by
  cases i <;> rfl

@[simp] theorem decode_encode (i : Instr) : decode (encode i) = .ok i := by
  simp [encode]

namespace Machine

theorem inRsqrtDomain_iff (a : Word) : inRsqrtDomain a = true ↔ 2 ^ 22 ≤ a.toNat ∧ a.toNat < 2 ^ 24 := by
  simp only [inRsqrtDomain, Bool.and_eq_true, decide_eq_true_eq]

/-! ## The blend of two table entries lies between them -/

/-- Either division of INTERP_DIV keeps a bracket of its quotient that does not lie below 0. -/
theorem interpDiv_mem_bracket (d : InterpDiv) {x y lo hi : Int} (hy : 0 < y) (h0 : 0 ≤ hi) (hlo : lo * y ≤ x)
    (hhi : x < (hi + 1) * y) : lo ≤ interpDiv d x y ∧ interpDiv d x y ≤ hi := by
  have floor_lo : lo ≤ x / y := (Int.le_ediv_iff_mul_le hy).2 hlo
  have floor_hi : x / y ≤ hi := Int.lt_add_one_iff.1 ((Int.ediv_lt_iff_lt_mul hy).2 hhi)
  cases d with
  | fdiv =>
    rw [interpDiv, Int.fdiv_eq_ediv_of_nonneg x hy.le]
    exact ⟨floor_lo, floor_hi⟩
  | tdiv =>
    rw [interpDiv]
    rcases le_total 0 x with hx | hx
    · rw [Int.tdiv_eq_ediv_of_nonneg hx]
      exact ⟨floor_lo, floor_hi⟩
    · have neg : 0 ≤ (-x).tdiv y := Int.tdiv_nonneg (neg_nonneg.2 hx) hy.le
      have above_floor : x / y ≤ x.tdiv y := by
        rw [Int.tdiv_eq_ediv, Int.sign_eq_one_of_pos hy]
        split <;> omega
      rw [Int.neg_tdiv] at neg
      omega

/-- Up to the full fraction the blend lies between its two entries, under either division. -/
theorem lerp_between (d : InterpDiv) (t0 t1 : Int) {f b : Nat} (hf : f ≤ 2 ^ b) :
    min t0 t1 ≤ lerp d t0 t1 f (2 ^ b) ∧ lerp d t0 t1 f (2 ^ b) ≤ max t0 t1 := by
  have hm : (0 : Int) < (2 ^ b : Nat) := by exact_mod_cast Nat.two_pow_pos b
  have hh : ((2 ^ b >>> 1 : Nat) : Int) < (2 ^ b : Nat) := by exact_mod_cast half_lt_pow b
  have hf' : (f : Int) ≤ (2 ^ b : Nat) := by exact_mod_cast hf
  have hh0 : (0 : Int) ≤ (2 ^ b >>> 1 : Nat) := Int.natCast_nonneg _
  have hf0 : (0 : Int) ≤ f := Int.natCast_nonneg _
  rw [lerp]
  generalize ((2 ^ b : Nat) : Int) = m at *
  generalize ((2 ^ b >>> 1 : Nat) : Int) = h at *
  rcases le_total t0 t1 with ht | ht
  · have := interpDiv_mem_bracket d (x := (t1 - t0) * f + h) (lo := 0) (hi := t1 - t0) hm (by omega)
      (by nlinarith) (by nlinarith)
    omega
  · have := interpDiv_mem_bracket d (x := (t1 - t0) * f + h) (lo := t1 - t0) (hi := 0) hm le_rfl
      (by nlinarith) (by nlinarith)
    omega

/-- A blend inside the table is an unsigned 16-bit number. -/
theorem lerpTable_eq_some_u16 {t : List Entry} {p : SplitPoint} {b : Nat} (hi : p.idx + 1 < t.length)
    (hm : p.m = 2 ^ b) (hf : p.frac ≤ p.m) (d : InterpDiv) :
    ∃ v, lerpTable d t p = some v ∧ 0 ≤ v ∧ v < 2 ^ 16 := by
  refine ⟨_, lerpTable_eq_some hi d, ?_⟩
  have h0 := t[p.idx].isLt
  have h1 := t[p.idx + 1].isLt
  have := lerp_between d t[p.idx].toNat t[p.idx + 1].toNat (hm ▸ hf)
  rw [hm]
  omega

/-! ## Every table read of a well-formed configuration answers -/

/-- A stretch holds the operand, and the split reads it there. -/
theorem splitRegions_of_lt_sum : ∀ (rs : List SplitRegion) (off : Nat), off < (rs.map SplitRegion.size).sum →
    ∃ r ∈ rs, ∃ k < r.size, splitRegions rs off = some (splitAt r.fracBits (r.start + k))
  | [], off, h => by simp at h
  | r :: rs, off, h => by
    by_cases hr : off < r.size
    · exact ⟨r, by simp, off, hr, by simp [splitRegions, hr]⟩
    · rw [List.map_cons, List.sum_cons] at h
      obtain ⟨r', hmem, k, hk, e⟩ := splitRegions_of_lt_sum rs (off - r.size) (by omega)
      exact ⟨r', by simp [hmem], k, hk, by simp [splitRegions, hr, e]⟩

/-- In its domain RSQRTTBL has a point to read at, with both entries inside the table (43_rsqrt_table.md R120). -/
theorem rsqrtSplit_inside {c : Config} (hw : c.wf = true) {a : Word} (ha : inRsqrtDomain a = true) :
    ∃ fb pos, rsqrtSplit c a = some (splitAt fb pos) ∧ pos >>> fb + 1 ≤ 2 ^ c.rsqrtTableBits := by
  obtain ⟨-, -, ⟨-, hb⟩, -, -, -, -, hs⟩ := c.wf_iff.1 hw
  obtain ⟨hlo, hhi⟩ := (inRsqrtDomain_iff a).1 ha
  unfold Config.splitWf at hs
  unfold rsqrtSplit
  cases h : c.rsqrtTableSplit with
  | default =>
    refine ⟨_, _, rfl, ?_⟩
    have hp : 2 ^ c.rsqrtTableBits * 2 ^ (24 - c.rsqrtTableBits) = 2 ^ 24 := by
      rw [← pow_add, Nat.add_sub_cancel' hb]
    rw [Nat.shiftRight_eq_div_pow, Nat.add_one_le_iff, Nat.div_lt_iff_lt_mul (Nat.two_pow_pos _), hp]
    omega
  | regions rs =>
    simp only [h, Bool.and_eq_true, decide_eq_true_eq, List.all_eq_true] at hs
    obtain ⟨hsum, hin⟩ := hs
    obtain ⟨r, hr, k, hk, e⟩ := splitRegions_of_lt_sum rs (a.toNat - 2 ^ 22) (by omega)
    refine ⟨_, _, e, ?_⟩
    have hri := hin r hr
    simp only [SplitRegion.inside, Bool.and_eq_true, decide_eq_true_eq] at hri
    obtain ⟨-, hend⟩ := hri
    have : (r.start + k) >>> r.fracBits ≤ (r.start + r.size - 1) >>> r.fracBits := by
      simp only [Nat.shiftRight_eq_div_pow]
      exact Nat.div_le_div_right (by omega)
    omega

theorem rsqrtTblAnswer_eq_some_u16 {c : Config} (hw : c.wf = true) {a : Word} (ha : inRsqrtDomain a = true) :
    ∃ v, rsqrtTblAnswer c a = some ⟨v, 0⟩ ∧ 0 ≤ v ∧ v < 2 ^ 16 := by
  obtain ⟨fb, pos, hs, hi⟩ := rsqrtSplit_inside hw ha
  obtain ⟨v, hv, hr⟩ := lerpTable_eq_some_u16 (t := c.rsqrtTable) (p := splitAt fb pos) (b := fb)
    (by rw [Config.rsqrtTable_length_of_wf hw]; exact Nat.lt_succ_of_le hi) rfl
    (Nat.mod_lt _ (Nat.two_pow_pos fb)).le c.interpDiv
  exact ⟨v, by simp [rsqrtTblAnswer, hs, hv], hr⟩

/-- SIN's point stays inside a table of `2^TB + 1` entries, whichever way the quarter is read (44_sincos.md R128). -/
theorem sinPoint_inside (c : Config) (ang : Nat) :
    (sinPoint c (angleFields c ang)).idx + 1 ≤ 2 ^ c.sinTableBits ∧
    (sinPoint c (angleFields c ang)).frac ≤ (sinPoint c (angleFields c ang)).m := by
  have hi : (angleFields c ang).i < 2 ^ c.sinTableBits := field_lt _ _ _
  have hf : (angleFields c ang).f < 2 ^ sinFracBits c := field_lt _ _ _
  simp only [sinPoint]
  split <;> omega

theorem sinOfAngle_eq_some_i17 {c : Config} (hw : c.wf = true) (ang : Nat) :
    ∃ v, sinOfAngle c ang = some ⟨v, 0⟩ ∧ -2 ^ 16 < v ∧ v < 2 ^ 16 := by
  obtain ⟨hi, hf⟩ := sinPoint_inside c ang
  obtain ⟨v, hv, h0, h1⟩ := lerpTable_eq_some_u16 (t := c.sinTable) (b := sinFracBits c)
    (by rw [Config.sinTable_length_of_wf hw]; exact Nat.lt_succ_of_le hi) rfl hf c.interpDiv
  refine ⟨_, by simp only [sinOfAngle, hv]; rfl, ?_⟩
  split <;> omega

/-! ## Every answer fits its registers (10_state.md R31) -/

/-- The value fits VALUE as a signed or unsigned number, the steps fit ITERS (10_state.md R31). -/
structure Answer.Fits (r : Answer) : Prop where
  /-- The least signed 32-bit number. -/
  value_ge : -2 ^ 31 ≤ r.value
  /-- The greatest unsigned 32-bit number. -/
  value_le : r.value ≤ 2 ^ 32 - 1
  /-- The greatest count ITERS holds. -/
  iters_le : r.iters ≤ 255

/-- Bisect leaves a bracket below any bound of its seed, after at most the cap of steps. -/
theorem bisect_le {lo hi tb maxIter B : Nat} (tooBig : Nat → Bool) (hlo : lo ≤ B) (hhi : hi ≤ B) :
    (bisect lo hi tb maxIter tooBig).lower ≤ B ∧ (bisect lo hi tb maxIter tooBig).upper ≤ B ∧
    (bisect lo hi tb maxIter tooBig).k ≤ maxIter := by
  refine bisectLoop_keeps (P := fun w => w.lower ≤ B ∧ w.upper ≤ B ∧ w.k ≤ maxIter) ?_ _ _
    ⟨hlo, hhi, Nat.zero_le _⟩
  rintro w ⟨hl, hu, -⟩ hgo
  simp only [bisectGoing, Bool.and_eq_true, decide_eq_true_eq] at hgo
  have hmid : bracketMid w ≤ B := by rw [bracketMid, Nat.shiftRight_eq_div_pow]; omega
  obtain ⟨-, h⟩ | ⟨-, h⟩ := bisectStep_cases tooBig w
  · rw [h]; exact ⟨hl, hmid, hgo.1⟩
  · rw [h]; exact ⟨hmid, hu, hgo.1⟩

theorem bisectAnswer_bisect_fits {lo hi maxIter : Nat} (tb : Nat) (tooBig : Nat → Bool) (hlo : lo ≤ 2 ^ 31)
    (hhi : hi ≤ 2 ^ 31) (hk : maxIter ≤ 255) : (bisectAnswer (bisect lo hi tb maxIter tooBig)).Fits := by
  obtain ⟨hl, hu, hs⟩ := bisect_le (tb := tb) (maxIter := maxIter) tooBig hlo hhi
  have hmid : bracketMid (bisect lo hi tb maxIter tooBig) ≤ 2 ^ 31 := by
    rw [bracketMid, Nat.shiftRight_eq_div_pow]; omega
  constructor <;> simp only [bisectAnswer] <;> omega

theorem log_toNat_lt (a : Word) : Nat.log 2 a.toNat < 32 := by
  rcases eq_or_ne a.toNat 0 with h | h
  · simp [h]
  · exact Nat.log_lt_of_lt_pow h a.isLt

theorem log2Floor_bounds (a : Word) : -1 ≤ log2Floor a ∧ log2Floor a < 32 := by
  have := log_toNat_lt a
  rw [log2Floor_eq]
  split <;> omega

theorem log2FloorAnswer_fits (a : Word) : (log2FloorAnswer a).Fits := by
  have := log2Floor_bounds a
  constructor <;> simp only [log2FloorAnswer] <;> omega

theorem log2CeilAnswer_fits (a : Word) : (log2CeilAnswer a).Fits := by
  have := log2Floor_bounds (a - 1#32)
  unfold log2CeilAnswer
  split
  · constructor <;> norm_num
  · constructor <;> simp only <;> omega

theorem sqrtAnswer_fits {c : Config} (hw : c.wf = true) (a : Word) : (sqrtAnswer c a).Fits := by
  unfold sqrtAnswer
  split
  · constructor <;> norm_num
  next ha =>
    have hseed : sqrtSeedLower a ≤ 2 ^ 15 := by
      have := log_toNat_lt a
      rw [sqrtSeedLower, Nat.one_shiftLeft, log2Floor_toNat ha, Nat.shiftRight_eq_div_pow]
      exact Nat.pow_le_pow_right two_pos (by omega)
    exact bisectAnswer_bisect_fits _ _ (by omega) (by omega) (Config.iterations_le_of_wf hw).1

theorem rsqrtAnswer_fits {c : Config} (hw : c.wf = true) (a : Word) : (rsqrtAnswer c a).Fits := by
  unfold rsqrtAnswer
  split
  · constructor <;> norm_num [rsqrtZeroAnswer]
  · refine bisectAnswer_bisect_fits _ _ ?_ ?_ (Config.iterations_le_of_wf hw).2
    · rw [rsqrtSeedLower, Nat.one_shiftLeft]
      exact Nat.pow_le_pow_right two_pos (by omega)
    · rw [rsqrtSeedUpper, Nat.one_shiftLeft]
      exact Nat.pow_le_pow_right two_pos (by omega)

/-- A 17-bit signed answer without steps fits. -/
theorem Answer.fits_of_i17 {v : Int} (h0 : -2 ^ 16 < v) (h1 : v < 2 ^ 16) : (Answer.mk v 0).Fits := by
  constructor <;> simp only <;> omega

/-- Under a well-formed configuration every request but RSQRTTBL outside its domain has an answer, and it fits. -/
theorem eval_eq_some_fits {c : Config} (hw : c.wf = true) (i : Instr)
    (hd : ∀ a, i = .rsqrttbl a → inRsqrtDomain a = true) : ∃ r, eval c i = some r ∧ r.Fits := by
  cases i with
  | log2floor a => exact ⟨_, rfl, log2FloorAnswer_fits a⟩
  | log2ceil a => exact ⟨_, rfl, log2CeilAnswer_fits a⟩
  | sqrt a => exact ⟨_, rfl, sqrtAnswer_fits hw a⟩
  | rsqrt a => exact ⟨_, rfl, rsqrtAnswer_fits hw a⟩
  | rsqrttbl a =>
    obtain ⟨v, hv, h0, h1⟩ := rsqrtTblAnswer_eq_some_u16 hw (hd a rfl)
    exact ⟨_, by simp [eval, hd a rfl, hv], Answer.fits_of_i17 (by omega) h1⟩
  | sin a =>
    obtain ⟨v, hv, h0, h1⟩ := sinOfAngle_eq_some_i17 hw (angleOf c a)
    exact ⟨_, hv, Answer.fits_of_i17 h0 h1⟩
  | cos a =>
    obtain ⟨v, hv, h0, h1⟩ := sinOfAngle_eq_some_i17 hw
      ((angleOf c a + 2 ^ (c.angleBits - 2)) % 2 ^ c.angleBits)
    exact ⟨_, hv, Answer.fits_of_i17 h0 h1⟩

theorem eval_rsqrttbl_eq_none {c : Config} {a : Word} (h : inRsqrtDomain a = false) :
    eval c (.rsqrttbl a) = none := by
  simp [eval, h]

theorem fits_of_eval {c : Config} (hw : c.wf = true) {i : Instr} {r : Answer} (h : eval c i = some r) : r.Fits := by
  obtain ⟨r', hr', hf⟩ := eval_eq_some_fits hw i (by
    rintro a rfl
    by_contra hd
    simp [eval_rsqrttbl_eq_none (Bool.not_eq_true _ ▸ hd)] at h)
  exact Option.some.inj (hr'.symm.trans h) ▸ hf

/-- Settles O37: an answer that fits is stored without loss, VALUE modulo `2^32` (10_state.md R31). -/
theorem respondStoresTheAnswer : Obligations.RespondStoresTheAnswer := by
  intro i s r hw he
  obtain ⟨hlo, hhi, hk⟩ := fits_of_eval hw he
  refine ⟨hlo, hhi, hk, _, exec_of_eval he, ?_, ?_⟩
  · rw [State.complete_value, BitVec.toNat_ofInt, Int.toNat_of_nonneg (Int.emod_nonneg _ (by norm_num))]
    norm_num
  · rw [State.complete_iters, BitVec.toNat_ofNat, Nat.mod_eq_of_lt (by omega)]

end Machine
end Sys2Proof
end

section
/-! PROOFS. The request protocol: what each agent's turn does and leaves, the invariant, a disciplined host, and the
working registers (10_state.md R25 to R32). -/

namespace Sys2Proof.Machine

/-! ## Complete of a request -/

/-- What Complete leaves behind is the response of its request, drawn or determined (10_state.md R31). -/
theorem holdsResponse_of_exec {i : Instr} {s t : State} (h : exec i s = .next t) : t.holdsResponse i := by
  obtain ⟨r, rfl, he | ⟨a, rfl, hd, rfl⟩⟩ := exec_next h
  · rw [State.holdsResponse, State.complete_cfg, he]
    exact ⟨rfl, rfl⟩
  · rw [State.holdsResponse, eval_rsqrttbl_eq_none hd]
    rfl

/-- A request that responds completes (10_state.md R29). -/
theorem exec_of_responds {s : State} (hw : s.cfg.wf = true) {i : Instr} (hr : requestResponds s.cfg i = true) :
    ∃ r, exec i s = .next (s.complete r) := by
  obtain ⟨r, -, hx⟩ | ⟨a, -, -, -, hx⟩ | ⟨a, rfl, hd, ho, -⟩ | ⟨he, -, hd⟩ := exec_cases i s
  · exact ⟨r, hx⟩
  · exact ⟨_, hx⟩
  · simp [requestResponds, hd, ho] at hr
  · obtain ⟨r, hs, -⟩ := eval_eq_some_fits hw i hd
    simp [he] at hs

/-- Settles O36: Complete writes what `State.complete` writes, and that is neither OP, A, the configuration nor the
host's side. -/
theorem completeFrame : Obligations.CompleteFrame := by
  intro i s t h
  obtain ⟨r, rfl, -⟩ := exec_next h
  simp

/-! ## What each agent's turn does in one case -/

theorem blockTurn_of_busy {s : State} {i : Instr} (hb : s.phase = .busy)
    (hd : decode (requestOf s.op s.a) = .ok i) : blockTurn s = exec i s := by
  simp [blockTurn, hb, (requestInFlight_eq_ok_iff s i).2 hd]

theorem hostTurn_issue_of_busy {s : State} {r : Request} {rest : List HostAction} (hp : s.pending = .issue r :: rest)
    (hb : s.phase = .busy) : hostTurn s = .next (s.hold .issueWhileBusy) := by
  simp [hostTurn, hp, hostIssue, hb]

theorem hostTurn_issue_of_taken {s : State} {r : Request} {rest : List HostAction} {i : Instr}
    (hp : s.pending = .issue r :: rest) (hb : s.phase ≠ .busy) (hd : decode r = .ok i)
    (ht : requestTaken s.cfg i = true) :
    hostTurn s = .next ((s.dropAction rest).takeRequest (requestOp r) (requestOperand r)) := by
  simp [hostTurn, hp, hostIssue, hb, hd, refusalAtIssue_eq_none ht]

theorem hostTurn_read_of_done {s : State} {rest : List HostAction} (hp : s.pending = .read :: rest)
    (hb : s.phase = .done) : hostTurn s = .next ((s.dropAction rest).give (.response s.value s.iters)) := by
  simp [hostTurn, hp, hostRead, hb]

theorem hostTurn_read_of_busy {s : State} {rest : List HostAction} (hp : s.pending = .read :: rest)
    (hb : s.phase = .busy) : hostTurn s = .next (s.hold .readWhileBusy) := by
  simp [hostTurn, hp, hostRead, hb]

theorem hostTurn_read_of_idle {s : State} {rest : List HostAction} (hp : s.pending = .read :: rest)
    (hb : s.phase = .idle) : hostTurn s = .fault .readBeforeResponse := by
  simp [hostTurn, hp, hostRead, hb]

theorem hostTurn_observe {s : State} {rest : List HostAction} (hp : s.pending = .observe :: rest) :
    hostTurn s = .next ((s.dropAction rest).give (.phase s.phase)) := by
  simp [hostTurn, hp, hostObserve]

/-! ## What each agent's turn can leave, when it leaves a state -/

/-- The host's turn moves nothing, holds, takes a request, or gives the host something. -/
theorem hostTurn_next {s t : State} (h : hostTurn s = .next t) :
    (s.pending = [] ∧ t = s) ∨
    (∃ k, s.phase = .busy ∧ t = s.hold k) ∨
    (∃ r rest i, s.pending = .issue r :: rest ∧ s.phase ≠ .busy ∧ decode r = .ok i ∧ requestTaken s.cfg i = true ∧
      t = (s.dropAction rest).takeRequest (requestOp r) (requestOperand r)) ∨
    (∃ x rest y, s.pending = x :: rest ∧ t = (s.dropAction rest).give y) := by
  obtain ⟨hp, e⟩ | ⟨r, rest, hp, hb, e⟩ | ⟨r, rest, i, hp, hb, hd, ht, e⟩ | ⟨r, rest, a, -, -, -, -, -, -, e⟩ |
    ⟨r, rest, -, -, -, e⟩ | ⟨rest, hp, -, e⟩ | ⟨rest, hp, hb, e⟩ | ⟨rest, -, -, e⟩ | ⟨rest, hp, e⟩ :=
      hostTurn_cases s <;> rw [e] at h <;> cases h
  · exact .inl ⟨hp, rfl⟩
  · exact .inr (.inl ⟨_, hb, rfl⟩)
  · exact .inr (.inr (.inl ⟨r, rest, i, hp, hb, hd, ht, rfl⟩))
  · exact .inr (.inr (.inr ⟨_, rest, _, hp, rfl⟩))
  · exact .inr (.inl ⟨_, hb, rfl⟩)
  · exact .inr (.inr (.inr ⟨_, rest, _, hp, rfl⟩))

/-- The block's turn passes outside BUSY, and in BUSY completes the request in flight. -/
theorem blockTurn_next {s t : State} (h : blockTurn s = .next t) :
    (s.phase ≠ .busy ∧ t = s) ∨
    (∃ i r, s.phase = .busy ∧ requestInFlight s = .ok i ∧ t = s.complete r ∧ t.holdsResponse i) := by
  obtain ⟨hb, e⟩ | ⟨i, hb, hi, e⟩ | ⟨-, -, e⟩ := blockTurn_cases s <;> rw [e] at h
  · cases h
    exact .inl ⟨hb, rfl⟩
  · obtain ⟨r, ht, -⟩ := exec_next h
    exact .inr ⟨i, r, hb, hi, ht, holdsResponse_of_exec h⟩
  · cases h

/-- A turn taken: the first listed turn, if any, is gone. -/
def State.takeTurn (s : State) : State := { s with turns := s.turns.tail }

@[simp] theorem State.takeTurn_op (s : State) : s.takeTurn.op = s.op := rfl
@[simp] theorem State.takeTurn_a (s : State) : s.takeTurn.a = s.a := rfl
@[simp] theorem State.takeTurn_value (s : State) : s.takeTurn.value = s.value := rfl
@[simp] theorem State.takeTurn_iters (s : State) : s.takeTurn.iters = s.iters := rfl
@[simp] theorem State.takeTurn_phase (s : State) : s.takeTurn.phase = s.phase := rfl
@[simp] theorem State.takeTurn_work (s : State) : s.takeTurn.work = s.work := rfl
@[simp] theorem State.takeTurn_held (s : State) : s.takeTurn.held = s.held := rfl
@[simp] theorem State.takeTurn_cfg (s : State) : s.takeTurn.cfg = s.cfg := rfl
@[simp] theorem State.takeTurn_draws (s : State) : s.takeTurn.draws = s.draws := rfl
@[simp] theorem State.takeTurn_pending (s : State) : s.takeTurn.pending = s.pending := rfl
@[simp] theorem State.takeTurn_turns (s : State) : s.takeTurn.turns = s.turns.tail := rfl
@[simp] theorem State.takeTurn_replies (s : State) : s.takeTurn.replies = s.replies := rfl

/-- A step of a well-formed configuration is the turn of the agent that moves. -/
theorem step_turn {s : State} (hw : s.cfg.wf = true) :
    ((nextTurn s).1 = .host ∧ step s = hostTurn s.takeTurn) ∨
    ((nextTurn s).1 = .block ∧ step s = blockTurn s.takeTurn) ∨
    ((nextTurn s).1 = .reset ∧ step s = .next s.takeTurn.resetBlock) := by
  obtain ⟨hw', -⟩ | ⟨-, hn, e⟩ | ⟨-, hn, e⟩ | ⟨-, hn, e⟩ := step_cases s
  · simp [hw] at hw'
  all_goals rw [nextTurn_snd_eq] at e
  · exact .inl ⟨hn, e⟩
  · exact .inr (.inl ⟨hn, e⟩)
  · exact .inr (.inr ⟨hn, e⟩)

/-- A step on the host's turn, of the state with that turn taken. -/
theorem step_eq_hostTurn {s : State} (hn : (nextTurn s).1 = .host) (hw : s.cfg.wf = true) :
    step s = hostTurn s.takeTurn :=
  step_of_host hw hn

/-- A step on the turn of reset. -/
theorem step_of_reset {s : State} (hw : s.cfg.wf = true) (h : (nextTurn s).1 = .reset) :
    step s = .next s.takeTurn.resetBlock := by
  obtain ⟨hn, -⟩ | ⟨hn, -⟩ | ⟨-, e⟩ := step_turn hw
  · simp [h] at hn
  · simp [h] at hn
  · exact e

/-- A step that answers a next state had a well-formed configuration. -/
theorem wf_of_step_next {s t : State} (h : step s = .next t) : s.cfg.wf = true := by
  by_contra hw
  simp [step, hw] at h

/-- On the block's turn a BUSY block runs the request OP and A hold. -/
theorem step_of_block_busy {s : State} {i : Instr} (hw : s.cfg.wf = true) (hn : (nextTurn s).1 = .block)
    (hb : s.phase = .busy) (hd : decode (requestOf s.op s.a) = .ok i) : step s = exec i s.takeTurn :=
  (step_of_block hw hn).trans (blockTurn_of_busy (s := s.takeTurn) hb hd)

/-- On the block's turn a BUSY block with a request that responds completes it. -/
theorem step_completes {s : State} {i : Instr} (hn : (nextTurn s).1 = .block) (hw : s.cfg.wf = true)
    (hb : s.phase = .busy) (hd : decode (requestOf s.op s.a) = .ok i) (hr : requestResponds s.cfg i = true) :
    ∃ r, step s = .next (s.takeTurn.complete r) ∧ (s.takeTurn.complete r).holdsResponse i := by
  obtain ⟨r, hx⟩ := exec_of_responds (s := s.takeTurn) hw hr
  exact ⟨r, (step_of_block_busy hw hn hb hd).trans hx, holdsResponse_of_exec hx⟩

theorem nextTurn_fst_of_cons {s : State} {t : Turn} {ts : List Turn} (h : s.turns = t :: ts) :
    (nextTurn s).1 = t := by
  simp [nextTurn, h]

theorem nextTurn_fst_of_nil_busy {s : State} (h : s.turns = []) (hb : s.phase = .busy) :
    (nextTurn s).1 = .block := by
  simp [nextTurn, h, hb]

theorem takeTurn_of_nil {s : State} (h : s.turns = []) : s.takeTurn = s := by
  rw [State.takeTurn, h, List.tail_nil, ← h]

/-! ## Single steps -/

/-- Settles O43: whether the block's turn is listed or none is, step takes that turn and runs the request. -/
theorem stepRunsTheRequest : Obligations.StepRunsTheRequest := by
  intro s i hw hb hd
  refine ⟨fun ts h => ?_, fun h => ?_⟩
  · rw [step_of_block_busy hw (nextTurn_fst_of_cons h) hb hd, State.takeTurn, h, List.tail_cons]
  · rw [step_of_block_busy hw (nextTurn_fst_of_nil_busy h hb) hb hd, takeTurn_of_nil h]

/-- Settles O44: the placed word is the instruction's encoding, so OP and A decode to it on the block's turn. -/
theorem fetchedWordRuns : Obligations.FetchedWordRuns := by
  intro s i n hw
  have hword : BitVec.ofNat 36 (encode i).toNat = encode i := by simp
  have hop : (s.withFetchWord n (encode i).toNat).op = i.opcode := by
    rw [State.withFetchWord_op, hword, encode, requestOp_requestOf]
  have ha : (s.withFetchWord n (encode i).toNat).a = i.operand := by
    rw [State.withFetchWord_a, hword, encode, requestOperand_requestOf]
  refine ⟨_, step_of_block_busy hw (nextTurn_fst_of_cons (State.withFetchWord_turns ..)) rfl ?_, hop, ha, ?_⟩
  · rw [hop, ha]
    exact decode_encode i
  · simp

/-- Settles O50: a look gives PHASE and drops the action, whatever the phase. -/
theorem observeEffect : Obligations.ObserveEffect := by
  intro s rest hw hn hp
  exact (step_eq_hostTurn hn hw).trans (hostTurn_observe hp)

/-- Settles O46: the turns host, block, host are a hold, a Complete that lifts it, and the Issue. -/
theorem issueHoldsWhileBusy : Obligations.IssueHoldsWhileBusy := by
  intro s ts r rest i j hw hb hp hd hr hts hdj hj
  have ht : step s = .next (s.takeTurn.hold .issueWhileBusy) :=
    (step_eq_hostTurn (nextTurn_fst_of_cons hts) hw).trans (hostTurn_issue_of_busy hp hb)
  have hblock : (s.takeTurn.hold .issueWhileBusy).turns = .block :: .host :: ts := by simp [hts]
  obtain ⟨x, hu, -⟩ := step_completes (nextTurn_fst_of_cons hblock) hw hb hd hr
  have hhost : ((s.takeTurn.hold .issueWhileBusy).takeTurn.complete x).turns = .host :: ts := by simp [hts]
  have htaken : requestTaken s.cfg j = true := by simpa [requestTaken] using hj
  have hv := (step_eq_hostTurn (nextTurn_fst_of_cons hhost) hw).trans
    (hostTurn_issue_of_taken hp (by simp) hdj htaken)
  refine ⟨_, _, _, ht, ?_, hu, rfl, rfl, hp, hv, rfl, rfl, rfl, rfl, rfl, rfl⟩
  simp [State.hold, State.takeTurn, hts]

/-- Settles O48: Read in DONE gives the pair and keeps the block, in BUSY it holds until Complete, in IDLE it faults. -/
theorem readEffect : Obligations.ReadEffect := by
  intro s rest hw hn hp
  have hstep := step_eq_hostTurn hn hw
  refine ⟨fun hb => ?_, fun hb hinv => ?_, fun hb => ?_, fun hb => ?_⟩
  · refine ⟨(s.takeTurn.dropAction rest).give (.response s.value s.iters), rfl,
      hstep.trans (hostTurn_read_of_done hp hb), fun rest' hn' hp' => ?_⟩
    exact ⟨_, (step_eq_hostTurn hn' hw).trans (hostTurn_read_of_done hp' hb), rfl⟩
  · obtain ⟨i, hi, hresp⟩ := hinv.done_response hb
    exact ⟨i, (requestInFlight_eq_ok_iff s i).1 hi, hresp⟩
  · refine ⟨s.takeTurn.hold .readWhileBusy, rfl, hstep.trans (hostTurn_read_of_busy hp hb),
      fun i hn' hd hr => ?_⟩
    obtain ⟨x, hu, hresp⟩ := step_completes hn' hw hb hd hr
    refine ⟨_, hu, rfl, rfl, hresp, hp, fun hn'' => ?_⟩
    exact ⟨_, (step_eq_hostTurn hn'' hw).trans (hostTurn_read_of_done hp rfl), rfl, rfl⟩
  · exact hstep.trans (hostTurn_read_of_idle hp hb)

/-- Settles O53: the frame of each agent's turn, case by case. -/
theorem whoWritesWhichRegister : Obligations.WhoWritesWhichRegister := by
  intro s t h
  obtain ⟨hn, e⟩ | ⟨hn, e⟩ | ⟨hn, e⟩ := step_turn (wf_of_step_next h) <;> rw [e] at h
  · obtain ⟨-, rfl⟩ | ⟨k, -, rfl⟩ | ⟨r, rest, i, hp, hb, -, -, rfl⟩ | ⟨x, rest, y, -, rfl⟩ := hostTurn_next h
    · simp
    · simp
    · exact ⟨fun _ => .inr ⟨hn, hb, r, rest, hp, rfl, rfl⟩, by simp, fun _ => .inr (.inl ⟨hn, hb, rfl, r, rest, hp⟩)⟩
    · simp
  · obtain ⟨-, rfl⟩ | ⟨i, r, hb, -, rfl, -⟩ := blockTurn_next h
    · simp
    · exact ⟨by simp, fun _ => .inr ⟨hn, hb, rfl⟩, fun _ => .inr (.inr ⟨hn, hb, rfl⟩)⟩
  · cases h
    exact ⟨fun _ => .inl hn, fun _ => .inl hn, fun _ => .inl ⟨hn, rfl⟩⟩

/-! ## The invariant of the protocol -/

/-- Which turns are listed is no part of the invariant. -/
theorem State.Inv.takeTurn {s : State} (h : s.Inv) : s.takeTurn.Inv :=
  ⟨h.busy_taken, h.done_response, h.held_busy, h.work_bounded⟩

/-- The request an Issue leaves in flight is the one its word decodes to. -/
theorem requestInFlight_takeRequest {r : Request} {i : Instr} (s : State) (hd : decode r = .ok i) :
    requestInFlight (s.takeRequest (requestOp r) (requestOperand r)) = .ok i := by
  rw [requestInFlight_eq_ok_iff]
  simpa using hd

theorem hostTurn_keeps_inv {s t : State} (hinv : s.Inv) (h : hostTurn s = .next t) : t.Inv := by
  obtain ⟨-, rfl⟩ | ⟨k, hb, rfl⟩ | ⟨r, rest, i, -, hb, hd, ht, rfl⟩ | ⟨x, rest, y, -, rfl⟩ := hostTurn_next h
  · exact hinv
  · exact ⟨hinv.busy_taken, hinv.done_response, fun _ => hb, hinv.work_bounded⟩
  · exact ⟨fun _ => ⟨i, requestInFlight_takeRequest _ hd, ht⟩, nofun, fun _ => rfl, hinv.work_bounded⟩
  · exact ⟨hinv.busy_taken, hinv.done_response, hinv.held_busy, hinv.work_bounded⟩

theorem blockTurn_keeps_inv {s t : State} (hinv : s.Inv) (h : blockTurn s = .next t) : t.Inv := by
  obtain ⟨-, rfl⟩ | ⟨i, r, -, hi, rfl, hresp⟩ := blockTurn_next h
  · exact hinv
  · exact ⟨nofun, fun _ => ⟨i, hi, hresp⟩, fun hh => absurd rfl hh, freeWork_bounded _ _ _⟩

theorem resetBlock_inv (s : State) : s.resetBlock.Inv :=
  ⟨nofun, nofun, fun hh => absurd rfl hh, by constructor <;> exact Nat.zero_le _⟩

/-- Settles O54: the turn of each agent keeps the invariant. -/
theorem stepKeepsTheInvariant : Obligations.StepKeepsTheInvariant := by
  intro s t hinv h
  obtain ⟨-, e⟩ | ⟨-, e⟩ | ⟨-, e⟩ := step_turn (wf_of_step_next h) <;> rw [e] at h
  · exact hostTurn_keeps_inv hinv.takeTurn h
  · exact blockTurn_keeps_inv hinv.takeTurn h
  · cases h
    exact resetBlock_inv _

/-! ## Runs -/

/-- What a state meets that lets it step, and what the step then keeps, makes every run safe. -/
theorem safe_of_progress {P : State → Prop} (progress : ∀ s, P s → ∃ t, step s = .next t ∧ P t) {s : State}
    (h : P s) : s.Safe := by
  intro k
  induction k generalizing s with
  | zero => exact ⟨s, rfl⟩
  | succ k ih =>
    obtain ⟨t, ht, hp⟩ := progress s h
    rw [core_run_succ k s t ht]
    exact ih hp

theorem cfg_of_step_next {s t : State} (h : step s = .next t) : t.cfg = s.cfg := by
  obtain ⟨-, e⟩ | ⟨-, e⟩ | ⟨-, e⟩ := step_turn (wf_of_step_next h) <;> rw [e] at h
  · obtain ⟨-, rfl⟩ | ⟨k, -, rfl⟩ | ⟨r, rest, i, -, -, -, -, rfl⟩ | ⟨x, rest, y, -, rfl⟩ := hostTurn_next h <;> rfl
  · obtain ⟨-, rfl⟩ | ⟨i, r, -, -, rfl, -⟩ := blockTurn_next h <;> rfl
  · cases h
    rfl

/-! ## A disciplined host -/

theorem actionLegal_issue_iff (c : Config) (r : Request) :
    actionLegal c (.issue r) = true ↔ ∃ i, decode r = .ok i ∧ requestResponds c i = true := by
  cases h : decode r <;> simp [actionLegal, h]

theorem decode_reserved {r : Request} (h : 7 ≤ (requestOp r).toNat) :
    decode r = .error (.reservedOp (requestOp r)) :=
  decodeFields_reserved h _

theorem State.HostDisciplined.takeTurn {s : State} (h : s.HostDisciplined) : s.takeTurn.HostDisciplined :=
  ⟨h.actions_legal, h.flight_responds, h.idle_issues, fun hm => h.no_reset (List.mem_of_mem_tail hm)⟩

/-- Dropping the oldest action keeps the duties of the host that speak of the actions to come. -/
theorem State.HostDisciplined.legal_tail {s : State} (h : s.HostDisciplined) {x : HostAction} {rest : List HostAction}
    (hp : s.pending = x :: rest) : ∀ y ∈ rest, actionLegal s.cfg y = true :=
  fun y hy => h.actions_legal y (hp ▸ List.mem_cons_of_mem x hy)

theorem State.HostDisciplined.issue_responds {s : State} (h : s.HostDisciplined) {r : Request}
    {rest : List HostAction} (hp : s.pending = .issue r :: rest) :
    ∃ i, decode r = .ok i ∧ requestResponds s.cfg i = true :=
  (actionLegal_issue_iff s.cfg r).1 (h.actions_legal (.issue r) (by simp [hp]))

/-- A disciplined host's turn meets no stop and leaves it disciplined. -/
theorem hostTurn_of_disciplined {s : State} (h : s.HostDisciplined) :
    ∃ t, hostTurn s = .next t ∧ t.HostDisciplined := by
  obtain ⟨-, e⟩ | ⟨r, rest, -, -, e⟩ | ⟨r, rest, i, hp, -, hd, -, e⟩ | ⟨r, rest, a, hp, -, hd, ha, ho, -⟩ |
    ⟨r, rest, hp, -, h7, -⟩ | ⟨rest, hp, hb, e⟩ | ⟨rest, -, -, e⟩ | ⟨rest, hp, hb, -⟩ | ⟨rest, hp, e⟩ :=
      hostTurn_cases s
  · exact ⟨_, e, h⟩
  · exact ⟨_, e, h.actions_legal, h.flight_responds, h.idle_issues, h.no_reset⟩
  · refine ⟨_, e, h.legal_tail hp, fun _ j hj => ?_, nofun, h.no_reset⟩
    obtain ⟨i', hd', hr⟩ := h.issue_responds hp
    rw [requestInFlight_takeRequest _ hd'] at hj
    cases hj
    exact hr
  · obtain ⟨i, hd', hr⟩ := h.issue_responds hp
    rw [hd] at hd'
    cases hd'
    simp [requestResponds, ha, ho] at hr
  · obtain ⟨i, hd, -⟩ := h.issue_responds hp
    simp [decode_reserved h7] at hd
  · exact ⟨_, e, h.legal_tail hp, h.flight_responds, fun hi => by simp [hb] at hi, h.no_reset⟩
  · exact ⟨_, e, h.actions_legal, h.flight_responds, h.idle_issues, h.no_reset⟩
  · have hr := h.idle_issues hb
    rw [hp] at hr
    cases hr
  · refine ⟨_, e, h.legal_tail hp, h.flight_responds, fun hi => ?_, h.no_reset⟩
    have hr := h.idle_issues hi
    rwa [hp] at hr

/-- The block's turn beside a disciplined host meets no stop and leaves the host disciplined. -/
theorem blockTurn_of_disciplined {s : State} (hw : s.cfg.wf = true) (hinv : s.Inv) (h : s.HostDisciplined) :
    ∃ t, blockTurn s = .next t ∧ t.HostDisciplined := by
  by_cases hb : s.phase = .busy
  · obtain ⟨i, hi, -⟩ := hinv.busy_taken hb
    obtain ⟨r, hx⟩ := exec_of_responds hw (h.flight_responds hb i hi)
    refine ⟨_, (blockTurn_of_busy hb ((requestInFlight_eq_ok_iff s i).1 hi)).trans hx, ?_⟩
    exact ⟨h.actions_legal, nofun, nofun, h.no_reset⟩
  · exact ⟨s, by simp [blockTurn, hb], h⟩

theorem nextTurn_ne_reset {s : State} (h : Turn.reset ∉ s.turns) : (nextTurn s).1 ≠ .reset := by
  obtain ⟨t, ts, h0, e⟩ | ⟨-, -, e⟩ | ⟨-, -, e⟩ := nextTurn_cases s <;> rw [e]
  · rintro rfl
    simp [h0] at h
  · nofun
  · nofun

theorem step_of_disciplined {s : State} (hw : s.cfg.wf = true) (hinv : s.Inv) (h : s.HostDisciplined) :
    ∃ t, step s = .next t ∧ t.HostDisciplined := by
  obtain ⟨-, e⟩ | ⟨-, e⟩ | ⟨hn, -⟩ := step_turn hw
  · rw [e]
    exact hostTurn_of_disciplined h.takeTurn
  · rw [e]
    exact blockTurn_of_disciplined hw hinv.takeTurn h.takeTurn
  · exact absurd hn (nextTurn_ne_reset h.no_reset)

/-- Settles O57: a well-formed configuration, the invariant and the host's duties together let every state step and
hold again after it. -/
theorem disciplinedHostIsSafe : Obligations.DisciplinedHostIsSafe := by
  intro s hw hinv hdisc
  refine safe_of_progress (P := fun s => s.cfg.wf = true ∧ s.Inv ∧ s.HostDisciplined) ?_ ⟨hw, hinv, hdisc⟩
  rintro s ⟨hw, hinv, hdisc⟩
  obtain ⟨t, ht, hdisc'⟩ := step_of_disciplined hw hinv hdisc
  exact ⟨t, ht, by rwa [cfg_of_step_next ht], stepKeepsTheInvariant s t hinv ht, hdisc'⟩

/-! ## A BUSY block completes -/

/-- The host's turn in BUSY leaves the request in flight. -/
theorem hostTurn_of_busy {s : State} (hb : s.phase = .busy) :
    ∃ t, hostTurn s = .next t ∧ t.phase = .busy ∧ t.op = s.op ∧ t.a = s.a ∧ t.cfg = s.cfg ∧ t.turns = s.turns := by
  match hp : s.pending with
  | [] => exact ⟨s, by simp [hostTurn, hp], hb, rfl, rfl, rfl, rfl⟩
  | .issue r :: rest => exact ⟨_, hostTurn_issue_of_busy hp hb, hb, rfl, rfl, rfl, rfl⟩
  | .read :: rest => exact ⟨_, hostTurn_read_of_busy hp hb, hb, rfl, rfl, rfl, rfl⟩
  | .observe :: rest => exact ⟨_, hostTurn_observe hp, hb, rfl, rfl, rfl, rfl⟩

theorem turns_of_host_of_busy {s : State} (hn : (nextTurn s).1 = .host) (hb : s.phase = .busy) :
    ∃ ts, s.turns = .host :: ts := by
  obtain ⟨t, ts, h0, e⟩ | ⟨-, -, e⟩ | ⟨-, hb', -⟩ := nextTurn_cases s
  · rw [e] at hn
    exact ⟨ts, hn ▸ h0⟩
  · rw [e] at hn
    cases hn
  · exact absurd hb hb'

/-- Settles O58, by induction on the turns listed: a host's turn leaves the request in flight and one turn less, and
the block's turn completes it. -/
theorem busyBlockCompletes : Obligations.BusyBlockCompletes := by
  intro s i hw hb hd hr hreset
  induction hl : s.turns.length using Nat.strong_induction_on generalizing s with
  | _ n ih =>
    obtain ⟨hn, e⟩ | ⟨hn, -⟩ | ⟨hn, -⟩ := step_turn hw
    · obtain ⟨ts, hts⟩ := turns_of_host_of_busy hn hb
      obtain ⟨t, ht, hb', hop, ha, hcfg, htail⟩ := hostTurn_of_busy (s := s.takeTurn) hb
      have hturns : s.turns = .host :: t.turns := by simp [htail, hts]
      have hlen : s.turns.length = t.turns.length + 1 := by simp [hturns]
      obtain ⟨k, u, hk, hu, hdone, huop, hua, hend⟩ := ih t.turns.length (by omega) t (by rwa [hcfg]) hb'
        (by rwa [hop, ha]) (by rwa [hcfg]) (fun hm => hreset (hturns ▸ List.mem_cons_of_mem _ hm)) rfl
      refine ⟨k + 1, u, by omega, ?_, hdone, huop.trans hop, hua.trans ha, hend⟩
      rw [core_run_succ k s t (e.trans ht), hu]
    · obtain ⟨r, ht, hresp⟩ := step_completes hn hw hb hd hr
      exact ⟨1, _, by omega, core_run_succ 0 s _ ht, rfl, rfl, rfl, hresp, rfl⟩
    · exact absurd hn (nextTurn_ne_reset hreset)

/-! ## The working registers are hidden -/

/-- Two outcomes that differ at most in the working registers. -/
inductive SameButWork : Host.Outcome State Fault Refusal → Host.Outcome State Fault Refusal → Prop
  | next (t : State) (w : Work) : SameButWork (.next t) (.next (t.withWork w))
  | fault (f : Fault) : SameButWork (.fault f) (.fault f)
  | refused (f : Refusal) : SameButWork (.refused f) (.refused f)

theorem SameButWork.refl (o : Host.Outcome State Fault Refusal) : SameButWork o o := by
  cases o with
  | next t => exact .next t t.work
  | fault f => exact .fault f
  | refused f => exact .refused f

/-- Complete writes the working registers and reads none of them before. -/
theorem exec_withWork (i : Instr) (w : Work) (s : State) : exec i (s.withWork w) = exec i s := by
  cases i <;> rfl

theorem hostIssue_withWork (r : Request) (rest : List HostAction) (s : State) (w : Work) :
    SameButWork (hostIssue r rest s) (hostIssue r rest (s.withWork w)) := by
  by_cases hb : s.phase = .busy
  · rw [hostIssue, hostIssue, if_pos hb, if_pos (c := (s.withWork w).phase = .busy) hb]
    exact .next _ w
  · rw [hostIssue, hostIssue, if_neg hb, if_neg (c := (s.withWork w).phase = .busy) hb, State.withWork_cfg]
    split
    · split
      · exact .next _ w
      · exact .refused _
    · exact .refused _

theorem hostRead_withWork (rest : List HostAction) (s : State) (w : Work) :
    SameButWork (hostRead rest s) (hostRead rest (s.withWork w)) := by
  unfold hostRead
  simp only [State.withWork_phase]
  split
  · exact .next _ w
  · exact .next _ w
  · exact .fault _

theorem hostTurn_withWork (s : State) (w : Work) : SameButWork (hostTurn s) (hostTurn (s.withWork w)) := by
  unfold hostTurn
  simp only [State.withWork_pending]
  split
  · exact .next s w
  · exact hostIssue_withWork _ _ s w
  · exact hostRead_withWork _ s w
  · exact .next _ w

theorem blockTurn_withWork (s : State) (w : Work) : SameButWork (blockTurn s) (blockTurn (s.withWork w)) := by
  have hflight : requestInFlight (s.withWork w) = requestInFlight s := rfl
  simp only [blockTurn, State.withWork_phase, hflight, exec_withWork]
  split
  · exact .refl _
  · exact .next s w

theorem nextTurn_withWork (s : State) (w : Work) : (nextTurn (s.withWork w)).1 = (nextTurn s).1 := by
  cases h : s.turns with
  | cons t ts => rw [nextTurn_fst_of_cons h, nextTurn_fst_of_cons (s := s.withWork w) h]
  | nil => by_cases hb : s.phase = .busy <;> simp [nextTurn, h, hb]

theorem step_withWork (s : State) (w : Work) : SameButWork (step s) (step (s.withWork w)) := by
  cases hw : s.cfg.wf with
  | false =>
    have e : step s = .refused .illFormedConfig := by simp [step, hw]
    have e' : step (s.withWork w) = .refused .illFormedConfig := by simp [step, hw]
    rw [e, e']
    exact .refused _
  | true =>
    have hn' := nextTurn_withWork s w
    obtain ⟨hn, e⟩ | ⟨hn, e⟩ | ⟨hn, e⟩ := step_turn hw <;> rw [e]
    · rw [step_of_host (s := s.withWork w) hw (hn'.trans hn)]
      exact hostTurn_withWork s.takeTurn w
    · rw [step_of_block (s := s.withWork w) hw (hn'.trans hn)]
      exact blockTurn_withWork s.takeTurn w
    · rw [step_of_reset (s := s.withWork w) hw (hn'.trans hn)]
      exact .refl _

/-- Settles O59: a step from other working registers has an outcome that differs in them at most. -/
theorem workingRegistersAreHidden : Obligations.WorkingRegistersAreHidden := by
  intro s w
  have h := step_withWork s w
  generalize step s = o at h ⊢
  generalize step (s.withWork w) = o' at h ⊢
  cases h with
  | next t w' => exact ⟨fun _ e => ⟨w', by cases e; rfl⟩, nofun, nofun⟩
  | fault f => exact ⟨nofun, fun _ e => e, nofun⟩
  | refused f => exact ⟨nofun, nofun, fun _ e => e⟩

end Sys2Proof.Machine
end

section
/-! PROOFS. The tables of the build that State.reset stands for, and what a step gives the host
(20_memory.md R42, R43, R52). -/

namespace Sys2Proof

/-! ## The free tables keep their order whatever the samples are -/

theorem Config.runMax_monotone (sample : Nat → Entry) : Monotone fun k => (runMax sample k).toNat := by
  refine monotone_nat_of_le_succ fun k => ?_
  simp only [runMax]
  split
  · assumption
  · exact le_rfl

theorem Config.runMin_antitone (sample : Nat → Entry) : Antitone fun k => (runMin sample k).toNat := by
  refine antitone_nat_of_succ_le fun k => ?_
  simp only [runMin]
  split
  · assumption
  · exact le_rfl

/-- Entry `k` of the free sine table, as `someSinTable` makes it. -/
def Config.someSinEntry (tb k : Nat) : Entry :=
  if k = 0 then 0#16
  else if k = 2 ^ tb then 4096#16
  else if (runMax freeSinSample k).toNat ≤ 4096 then runMax freeSinSample k else 4096#16

theorem Config.someSinTable_eq_map (tb : Nat) :
    someSinTable tb = (List.range (2 ^ tb + 1)).map (someSinEntry tb) := rfl

@[simp] theorem Config.someSinTable_length (tb : Nat) : (someSinTable tb).length = 2 ^ tb + 1 := by
  simp [someSinTable_eq_map]

@[simp] theorem Config.someRsqrtTable_length (rtb : Nat) : (someRsqrtTable rtb).length = 2 ^ rtb + 1 := by
  simp [someRsqrtTable]

theorem Config.someSinTable_getElem? {tb k : Nat} (h : k ≤ 2 ^ tb) :
    (someSinTable tb)[k]? = some (someSinEntry tb k) := by
  rw [someSinTable_eq_map, List.getElem?_map, List.getElem?_range (Nat.lt_succ_of_le h), Option.map_some]

@[simp] theorem Config.someSinEntry_zero (tb : Nat) : someSinEntry tb 0 = 0#16 := if_pos rfl

@[simp] theorem Config.someSinEntry_last (tb : Nat) : someSinEntry tb (2 ^ tb) = 4096#16 := by
  simp [someSinEntry]

/-- Between its ends the table holds the running maximum of the samples, capped at full scale. -/
theorem Config.someSinEntry_toNat_of_inner {tb k : Nat} (h0 : k ≠ 0) (h1 : k ≠ 2 ^ tb) :
    (someSinEntry tb k).toNat = min (runMax freeSinSample k).toNat 4096 := by
  rw [someSinEntry, if_neg h0, if_neg h1]
  split
  · omega
  · simp; omega

theorem Config.someSinEntry_toNat_le (tb k : Nat) : (someSinEntry tb k).toNat ≤ 4096 := by
  by_cases h0 : k = 0
  · simp [h0]
  · by_cases h1 : k = 2 ^ tb
    · simp [h1]
    · rw [someSinEntry_toNat_of_inner h0 h1]
      exact min_le_right _ _

/-- A later entry is no smaller: it is above the first, below the last, or both are capped running maxima. -/
theorem Config.someSinEntry_le_of_lt {tb j k : Nat} (hjk : j < k) (hk : k ≤ 2 ^ tb) :
    (someSinEntry tb j).toNat ≤ (someSinEntry tb k).toNat := by
  by_cases h0 : j = 0
  · simp [h0]
  · by_cases h1 : k = 2 ^ tb
    · simpa [h1] using someSinEntry_toNat_le tb j
    · rw [someSinEntry_toNat_of_inner h0 (by omega), someSinEntry_toNat_of_inner (by omega) h1]
      exact min_le_min_right 4096 (runMax_monotone freeSinSample hjk.le)

theorem Config.someSinTable_ends (tb : Nat) :
    (someSinTable tb)[0]? = some 0#16 ∧ (someSinTable tb)[2 ^ tb]? = some 4096#16 :=
  ⟨by rw [someSinTable_getElem? (Nat.zero_le _), someSinEntry_zero],
    by rw [someSinTable_getElem? le_rfl, someSinEntry_last]⟩

theorem Config.someSinTable_rises (tb : Nat) :
    (someSinTable tb).Pairwise (fun x y => x.toNat ≤ y.toNat) := by
  rw [someSinTable_eq_map, List.pairwise_map]
  refine List.pairwise_lt_range.imp_of_mem fun _ hk hjk => ?_
  exact someSinEntry_le_of_lt hjk (Nat.le_of_lt_succ (List.mem_range.1 hk))

/-- The free reciprocal-sqrt table is a running maximum or a running minimum of its samples. -/
theorem Config.someRsqrtTable_monotone (rtb : Nat) :
    (someRsqrtTable rtb).Pairwise (fun x y => x.toNat ≤ y.toNat) ∨
    (someRsqrtTable rtb).Pairwise (fun x y => y.toNat ≤ x.toNat) := by
  simp only [someRsqrtTable, List.pairwise_map]
  cases freeRsqrtRises with
  | true => exact .inl (List.pairwise_lt_range.imp fun hjk => runMax_monotone freeRsqrtSample hjk.le)
  | false => exact .inr (List.pairwise_lt_range.imp fun hjk => runMin_antitone freeRsqrtSample hjk.le)

theorem Config.build_wf : Config.build.wf = true := by
  rw [Config.wf_iff]
  exact ⟨by decide, by decide, by decide, by decide, by decide, ⟨someSinTable_length 6, someSinTable_ends 6⟩,
    someRsqrtTable_length 7, rfl⟩

/-- Settles O41: the checks of R8 hold of the values chosen, and the tables keep their order for every sample. -/
theorem buildMeetsTheTableRules : Obligations.BuildMeetsTheTableRules :=
  ⟨Config.build_wf, Config.someSinTable_rises 6, Config.someRsqrtTable_monotone 7⟩

namespace Machine

/-! ## What a step gives the host -/

/-- The host's turn gives it nothing, PHASE, or, in DONE, the pair VALUE and ITERS hold. -/
theorem hostTurn_replies {s t : State} (h : hostTurn s = .next t) :
    t.replies = s.replies ∨ t.replies = .phase s.phase :: s.replies ∨
    (s.phase = .done ∧ t.replies = .response s.value s.iters :: s.replies) := by
  obtain ⟨-, e⟩ | ⟨r, rest, -, -, e⟩ | ⟨r, rest, i, -, -, -, -, e⟩ | ⟨r, rest, a, -, -, -, -, -, -, e⟩ |
    ⟨r, rest, -, -, -, e⟩ | ⟨rest, -, hb, e⟩ | ⟨rest, -, -, e⟩ | ⟨rest, -, -, e⟩ | ⟨rest, -, e⟩ :=
      hostTurn_cases s <;> rw [e] at h <;> cases h
  · exact .inl rfl
  · exact .inl rfl
  · exact .inl rfl
  · exact .inr (.inr ⟨hb, rfl⟩)
  · exact .inl rfl
  · exact .inr (.inl rfl)

theorem blockTurn_replies {s t : State} (h : blockTurn s = .next t) : t.replies = s.replies := by
  obtain ⟨-, rfl⟩ | ⟨i, r, -, -, rfl, -⟩ := blockTurn_next h <;> rfl

/-- Settles O49: only a Read in DONE gives a response, and there the invariant makes it that of the request in OP
and A. -/
theorem readNeverReturnsAnOlderResponse : Obligations.ReadNeverReturnsAnOlderResponse := by
  intro s t hinv h
  obtain ⟨-, e⟩ | ⟨-, e⟩ | ⟨-, e⟩ := step_turn (wf_of_step_next h) <;> rw [e] at h
  · obtain hr | hr | ⟨hb, hr⟩ := hostTurn_replies h
    · exact .inl hr
    · exact .inr (.inl hr)
    · obtain ⟨i, hi, hresp⟩ := hinv.done_response hb
      exact .inr (.inr ⟨hb, hr, i, (requestInFlight_eq_ok_iff s i).1 hi, hresp⟩)
  · exact .inl (blockTurn_replies (s := s.takeTurn) h)
  · cases h
    exact .inl rfl

end Machine
end Sys2Proof
end

section
/-! PROOFS. The decoder undoes the encoder and nothing else decodes, and the match and mask rows of the opcode table
read the op code of a word (30_encoding.md R60 to R64, R70). -/

namespace Sys2Proof

/-! ## What decodes is what was encoded -/

theorem decodeFields_eq_ok_iff {op : OpCode} {a : Word} {i : Instr} :
    decodeFields op a = .ok i ↔ i.opcode = op ∧ i.operand = a := by
  constructor
  · intro h
    rcases decodeFields_cases op a with
      ⟨hop, e⟩ | ⟨hop, e⟩ | ⟨hop, e⟩ | ⟨hop, e⟩ | ⟨hop, e⟩ | ⟨hop, e⟩ | ⟨hop, e⟩ | ⟨-, e⟩ <;>
      rw [e] at h <;> cases h <;> exact ⟨BitVec.eq_of_toNat_eq hop.symm, rfl⟩
  · rintro ⟨rfl, rfl⟩
    exact decodeFields_opcode_operand i

theorem opcode_of_decode {r : Request} {i : Instr} (h : decode r = .ok i) : i.opcode = requestOp r :=
  (decodeFields_eq_ok_iff.1 h).1

/-- A word decodes to the one instruction it is the encoding of (30_encoding.md R60, R62). -/
theorem decode_eq_ok_iff {r : Request} {i : Instr} : decode r = .ok i ↔ encode i = r := by
  constructor
  · intro h
    obtain ⟨hop, ha⟩ := decodeFields_eq_ok_iff.1 h
    rw [encode, hop, ha, requestOf_fields]
  · rintro rfl
    exact decode_encode i

/-! ## The rows of the opcode table -/

/-- The op code a row of the table stands for (30_encoding.md R70). -/
def OpcodeRow.op (row : OpcodeRow) : OpCode := requestOp row.pattern

/-- `match = op << 32`, `mask = 0xF << 32` and a defined op code, row by row (30_encoding.md R70). -/
theorem opcodeRows_fields : ∀ row ∈ opcodeRows,
    row.pattern = requestOf row.op 0#32 ∧ row.mask = requestOf 0xF#4 0#32 ∧ row.op.toNat ≤ 6 := by
  decide

theorem opcodeRows_op_inj : ∀ row ∈ opcodeRows, ∀ row' ∈ opcodeRows, row.op = row'.op → row = row' := by
  decide

/-- Row by row, the mnemonic and the op code name the same operation (30_encoding.md R62, R70). -/
theorem mnemonic_eq_row_iff {row : OpcodeRow} (hrow : row ∈ opcodeRows) (i : Instr) :
    i.mnemonic = row.mnemonic ↔ i.opcode = row.op := by
  revert row
  cases i <;> simp only [Instr.mnemonic, Instr.opcode] <;> decide

theorem requestOf_inj_left {op op' : OpCode} {a : Word} : requestOf op a = requestOf op' a ↔ op = op' :=
  ⟨fun h => by simpa using congrArg requestOp h, fun h => h ▸ rfl⟩

/-- The mask of R70 keeps the op code of a word and clears its operand. -/
theorem and_opMask (r : Request) : r &&& requestOf 0xF#4 0#32 = requestOf (requestOp r) 0#32 := by
  calc r &&& requestOf 0xF#4 0#32
      = requestOf (requestOp r) (requestOperand r) &&& requestOf 0xF#4 0#32 := by rw [requestOf_fields]
    _ = requestOf (requestOp r &&& BitVec.allOnes 4) (requestOperand r &&& 0#32) := BitVec.and_append
    _ = requestOf (requestOp r) 0#32 := by rw [BitVec.and_allOnes, BitVec.and_zero]

theorem OpcodeRow.matches_iff {row : OpcodeRow} (hrow : row ∈ opcodeRows) (r : Request) :
    row.matches r = true ↔ requestOp r = row.op := by
  obtain ⟨hpattern, hmask, -⟩ := opcodeRows_fields row hrow
  rw [OpcodeRow.matches, decide_eq_true_iff, hpattern, hmask, and_opMask, requestOf_inj_left]

/-- Settles O3: a row matches a word when its op code is the word's; a word with a row's op code is the encoding of an
instruction of that op code, which the row's mnemonic names too; and no two rows share an op code. -/
theorem opcodeRowsReadTheWord : Obligations.OpcodeRowsReadTheWord := by
  constructor
  · intro row hrow r
    rw [OpcodeRow.matches_iff hrow]
    constructor
    · intro hop
      obtain ⟨-, -, hdefined⟩ := opcodeRows_fields row hrow
      obtain ⟨i, hi⟩ : ∃ i, decode r = .ok i := (decodeFields_isOk_iff _ _).2 (hop ▸ hdefined)
      exact ⟨i, hi, (mnemonic_eq_row_iff hrow i).2 ((opcode_of_decode hi).trans hop)⟩
    · rintro ⟨i, hi, hname⟩
      exact (opcode_of_decode hi).symm.trans ((mnemonic_eq_row_iff hrow i).1 hname)
  · intro row hrow row' hrow' r hm hm'
    have hop := (OpcodeRow.matches_iff hrow r).1 hm
    have hop' := (OpcodeRow.matches_iff hrow' r).1 hm'
    exact opcodeRows_op_inj row hrow row' hrow' (hop.symm.trans hop')

/-- Settles O1: each of the seven words is the encoding of its instruction, and the op codes 0x7 and 0xF are
reserved. -/
theorem requestWordsDecode : Obligations.RequestWordsDecode :=
  ⟨decode_eq_ok_iff.2 rfl, decode_eq_ok_iff.2 rfl, decode_eq_ok_iff.2 rfl, decode_eq_ok_iff.2 rfl,
    decode_eq_ok_iff.2 rfl, decode_eq_ok_iff.2 rfl, decode_eq_ok_iff.2 rfl,
    Machine.decode_reserved (by decide), Machine.decode_reserved (by decide)⟩

end Sys2Proof
end

section
/-! PROOFS. LOG2FLOOR and LOG2CEIL answer the floor and the ceiling of the binary logarithm, which agree exactly at the
powers of two (40_log2.md R82 to R85). -/

namespace Sys2Proof.Machine

/-! ## The two binary logarithms -/

/-- The ceiling of the logarithm, from the floor of the predecessor's: how LOG2CEIL computes it (40_log2.md R83). -/
theorem clog_two_eq_log_pred_add_one {n : Nat} (h : 2 ≤ n) : Nat.clog 2 n = Nat.log 2 (n - 1) + 1 := by
  refine eq_of_forall_ge_iff fun z => ?_
  rw [Nat.clog_le_iff_le_pow one_lt_two, Nat.add_one_le_iff, Nat.log_lt_iff_lt_pow one_lt_two (by omega)]
  omega

theorem log_two_eq_clog_iff {n : Nat} (h : n ≠ 0) : Nat.log 2 n = Nat.clog 2 n ↔ ∃ k, n = 2 ^ k := by
  constructor
  · intro heq
    refine ⟨Nat.log 2 n, le_antisymm ?_ (Nat.pow_log_le_self 2 h)⟩
    exact heq ▸ Nat.le_pow_clog one_lt_two n
  · rintro ⟨k, rfl⟩
    rw [Nat.log_pow one_lt_two, Nat.clog_pow _ _ one_lt_two]

/-- VALUE holds the floor of a word's logarithm as it is. -/
theorem toNat_ofNat_log (a : Word) : (BitVec.ofNat 32 (Nat.log 2 a.toNat)).toNat = Nat.log 2 a.toNat :=
  Nat.mod_eq_of_lt ((log_toNat_lt a).trans (by norm_num))

/-- VALUE holds the ceiling of a word's logarithm, at most 32, as it is. -/
theorem toNat_ofNat_clog (a : Word) : (BitVec.ofNat 32 (Nat.clog 2 a.toNat)).toNat = Nat.clog 2 a.toNat :=
  Nat.mod_eq_of_lt ((Nat.clog_le_of_le_pow a.isLt.le).trans_lt (by norm_num))

/-- The logarithm is the position of a set bit. -/
theorem getLsbD_log {a : Word} (h : a ≠ 0#32) : a.getLsbD (Nat.log 2 a.toNat) = true := by
  rw [BitVec.getLsbD, ← Nat.log2_eq_log_two]
  exact Nat.testBit_log2 (BitVec.toNat_ne.1 h)

/-- No bit above the logarithm is set. -/
theorem getLsbD_eq_false_of_log_lt {a : Word} {k : Nat} (h : Nat.log 2 a.toNat < k) : a.getLsbD k = false :=
  Nat.testBit_lt_two_pow (Nat.lt_pow_of_log_lt one_lt_two h)

/-! ## What the two operations answer -/

theorem log2FloorAnswer_zero : log2FloorAnswer 0#32 = ⟨-1, 0⟩ := by
  rw [log2FloorAnswer, log2Floor_eq, if_pos rfl]

theorem log2FloorAnswer_of_ne_zero {a : Word} (h : a ≠ 0#32) : log2FloorAnswer a = ⟨(Nat.log 2 a.toNat : Nat), 0⟩ := by
  rw [log2FloorAnswer, log2Floor_eq, if_neg h]

theorem log2CeilAnswer_zero : log2CeilAnswer 0#32 = ⟨-1, 0⟩ :=
  if_pos rfl

theorem log2CeilAnswer_iters (a : Word) : (log2CeilAnswer a).iters = 0 := by
  unfold log2CeilAnswer
  split <;> rfl

/-- At 1 the −1 of Log2Floor at 0 gives the 0 that is the logarithm; from 2 on the predecessor has a logarithm. -/
theorem log2CeilAnswer_of_ne_zero {a : Word} (h : a ≠ 0#32) : log2CeilAnswer a = ⟨(Nat.clog 2 a.toNat : Nat), 0⟩ := by
  rw [log2CeilAnswer, if_neg h, log2Floor_eq]
  by_cases h1 : a = 1#32
  · simp [h1]
  · have hpred : (a - 1#32).toNat = a.toNat - 1 := by bv_omega
    have h2 : 2 ≤ a.toNat := by bv_omega
    rw [if_neg (by bv_omega), hpred, clog_two_eq_log_pred_add_one h2, Nat.cast_succ]

/-! ## The obligations -/

/-- Settles O7: both complete with their answer; VALUE holds the logarithm as it is, which for LOG2FLOOR is where the
highest set bit stands. -/
theorem log2Exactness : Obligations.Log2Exactness := by
  intro a s
  refine ⟨⟨_, exec_of_eval rfl, rfl, rfl, ?_, fun ha => ?_⟩, ⟨_, exec_of_eval rfl, rfl, ?_, ?_, fun ha => ?_⟩⟩
  · rintro rfl
    rw [State.complete_value, log2FloorAnswer_zero]
    rfl
  · rw [State.complete_value, log2FloorAnswer_of_ne_zero ha, BitVec.ofInt_natCast, toNat_ofNat_log]
    exact ⟨rfl, getLsbD_log ha, fun _ => getLsbD_eq_false_of_log_lt⟩
  · rw [State.complete_iters, log2CeilAnswer_iters]
  · rintro rfl
    rw [State.complete_value, log2CeilAnswer_zero]
    rfl
  · rw [State.complete_value, log2CeilAnswer_of_ne_zero ha, BitVec.ofInt_natCast]

/-- Settles O8: neither logarithm is cut by VALUE, so the values are equal exactly when the logarithms are. -/
theorem log2AgreeAtPowersOfTwo : Obligations.Log2AgreeAtPowersOfTwo := by
  intro a s
  refine ⟨_, _, exec_of_eval rfl, exec_of_eval rfl, fun ha => ?_, ?_⟩
  · rw [State.complete_value, State.complete_value, log2FloorAnswer_of_ne_zero ha, log2CeilAnswer_of_ne_zero ha,
      BitVec.ofInt_natCast, BitVec.ofInt_natCast, ← BitVec.toNat_inj, toNat_ofNat_log, toNat_ofNat_clog,
      log_two_eq_clog_iff (BitVec.toNat_ne.1 ha)]
  · rintro rfl
    rw [State.complete_value, State.complete_value, log2FloorAnswer_zero, log2CeilAnswer_zero]
    decide

end Sys2Proof.Machine
end

section
/-! PROOFS. Bisect halves an aligned bracket inside its seed and stops at its tolerance; in SQRT the bracket holds the
root all along, which gives its answer and how near that is to the root (41_sqrt.md R90 to R96). -/

namespace Sys2Proof.Machine

/-! ## How many steps Bisect takes -/

/-- The greatest `e` such that a bracket of width `2^e` is within the tolerance of a seed `[2^j, 2^(j+1)]`: where the
tolerance is `2^(j−tb) + 1`, only `j = tb` has a width that the added 1 lets in (41_sqrt.md R94). -/
def toleranceLog (tb j : Nat) : Nat := if j = tb then 1 else j - tb

theorem two_pow_le_two_pow_add_one_iff {d : Nat} (hd : d ≠ 0) (i : Nat) : 2 ^ i ≤ 2 ^ d + 1 ↔ i ≤ d := by
  constructor
  · intro h
    by_contra! hlt
    have hnext : 2 ^ (d + 1) ≤ 2 ^ i := Nat.pow_le_pow_right two_pos hlt
    have htwo : 2 ^ 1 ≤ 2 ^ d := Nat.pow_le_pow_right two_pos (Nat.one_le_iff_ne_zero.2 hd)
    rw [pow_succ] at hnext
    omega
  · intro h
    exact (Nat.pow_le_pow_right two_pos h).trans (Nat.le_succ _)

theorem two_pow_le_tol_iff (tb j i : Nat) :
    2 ^ i ≤ (bisectSeed (2 ^ j) (2 * 2 ^ j) tb).tol ↔ i ≤ toleranceLog tb j := by
  simp only [bisectSeed, toleranceLog, Nat.shiftRight_eq_div_pow]
  rcases lt_trichotomy j tb with h | rfl | h
  · rw [if_neg h.ne, Nat.div_eq_of_lt (Nat.pow_lt_pow_right one_lt_two h), Nat.sub_eq_zero_of_le h.le]
    exact Nat.pow_le_pow_iff_right (m := 0) one_lt_two
  · rw [if_pos rfl, Nat.div_self (Nat.two_pow_pos j)]
    exact Nat.pow_le_pow_iff_right (m := 1) one_lt_two
  · rw [if_neg h.ne', Nat.pow_div h.le two_pos]
    exact two_pow_le_two_pow_add_one_iff (Nat.sub_ne_zero_of_lt h) i

theorem bisectSteps_eq (tb maxIter j : Nat) : bisectSteps tb maxIter j = min maxIter (j - toleranceLog tb j) := by
  unfold bisectSteps toleranceLog
  split_ifs <;> congr 1 <;> omega

/-- Whatever the comparison, Bisect halves the seed `bisectSteps` times (41_sqrt.md R94). -/
theorem bisect_steps_width (j tb maxIter : Nat) (tooBig : Nat → Bool) :
    (bisect (2 ^ j) (2 * 2 ^ j) tb maxIter tooBig).k = bisectSteps tb maxIter j ∧
    (bisect (2 ^ j) (2 * 2 ^ j) tb maxIter tooBig).upper =
      (bisect (2 ^ j) (2 * 2 ^ j) tb maxIter tooBig).lower + 2 ^ (j - bisectSteps tb maxIter j) := by
  have h := bisectLoop_width (maxIter := maxIter) (tooBig := tooBig) (two_pow_le_tol_iff tb j) maxIter j
    (bisectSeed (2 ^ j) (2 * 2 ^ j) tb) rfl (two_mul _)
  have hsteps : min maxIter (min (maxIter - 0) (j - toleranceLog tb j)) = bisectSteps tb maxIter j := by
    rw [bisectSteps_eq, Nat.sub_zero, ← min_assoc, min_self]
  simpa only [bisect, bisectSeed, hsteps, Nat.zero_add] using h

/-- Settles O9: each step halves the width until it is within tolerance or the cap is reached, and with shift 6 and cap
10 the tolerance comes first. -/
theorem bisectStepCount : Obligations.BisectStepCount := by
  refine ⟨bisect_steps_width, fun j => ?_⟩
  unfold bisectSteps
  split_ifs <;> omega

/-! ## What every step of Bisect keeps -/

/-- A bracket inside `[lo, hi]` whose width is a power of two that divides its lower end, so that halving it is exact,
under a tolerance that stops the loop at width 1 (41_sqrt.md R94, R95). -/
structure Work.AlignedIn (lo hi : Nat) (w : Work) : Prop where
  /-- Only the lower end rises. -/
  lower_ge : lo ≤ w.lower
  /-- Only the upper end falls. -/
  upper_le : w.upper ≤ hi
  /-- TOL is at least 1. -/
  tol_pos : 1 ≤ w.tol
  /-- The bracket is one of the stretches that the multiples of its width bound. -/
  aligned : ∃ m, w.upper = w.lower + 2 ^ m ∧ 2 ^ m ∣ w.lower

theorem bracketMid_eq (w : Work) : bracketMid w = (w.lower + w.upper) / 2 :=
  Nat.shiftRight_eq_div_pow ..

namespace Work.AlignedIn

variable {lo hi maxIter : Nat} {w : Work}

theorem lower_lt_upper (h : w.AlignedIn lo hi) : w.lower < w.upper := by
  obtain ⟨m, hw, -⟩ := h.aligned
  have := Nat.two_pow_pos m
  omega

/-- The midpoint lies in the bracket, below its upper end. -/
theorem bracketMid_mem (h : w.AlignedIn lo hi) : w.lower ≤ bracketMid w ∧ bracketMid w < w.upper := by
  have := h.lower_lt_upper
  rw [bracketMid_eq]
  omega

theorem width_dvd {width : Nat} (h : w.AlignedIn lo hi) (hw : w.upper = w.lower + width) : width ∣ w.lower := by
  obtain ⟨m, hm, hdvd⟩ := h.aligned
  exact Nat.add_left_cancel (hw.symm.trans hm) ▸ hdvd

/-- Where the loop goes on the width is even and the guess is exactly in the middle (41_sqrt.md R95). -/
theorem halves (h : w.AlignedIn lo hi) (hgo : bisectGoing maxIter w = true) :
    ∃ m, w.upper = w.lower + 2 ^ (m + 1) ∧ 2 ^ (m + 1) ∣ w.lower ∧ bracketMid w = w.lower + 2 ^ m := by
  obtain ⟨-, -, htol, m, hw, hdvd⟩ := h
  simp only [bisectGoing, Bool.and_eq_true, decide_eq_true_eq] at hgo
  cases m with
  | zero => rw [pow_zero] at hw; omega
  | succ m => exact ⟨m, hw, hdvd, bracketMid_of_width hw⟩

theorem step (h : w.AlignedIn lo hi) (hgo : bisectGoing maxIter w = true) (tooBig : Nat → Bool) :
    (bisectStep tooBig w).AlignedIn lo hi := by
  obtain ⟨m, hw, hdvd, hmid⟩ := h.halves hgo
  obtain ⟨hlo, hhi, htol, -⟩ := h
  have hdvd' : 2 ^ m ∣ w.lower := (pow_dvd_pow 2 m.le_succ).trans hdvd
  rw [pow_succ] at hw
  obtain ⟨-, hs⟩ | ⟨-, hs⟩ := bisectStep_cases tooBig w <;> rw [hs, hmid]
  · exact ⟨hlo, by simp only; omega, htol, m, rfl, hdvd'⟩
  · exact ⟨by simp only; omega, hhi, htol, m, by simp only; omega, hdvd'.add dvd_rfl⟩

end Work.AlignedIn

/-- At the start and after every step Bisect's bracket is an aligned one inside its seed. -/
theorem bisectLoop_alignedIn (j tb maxIter : Nat) (tooBig : Nat → Bool) (n : Nat) :
    (bisectLoop maxIter tooBig n (bisectSeed (2 ^ j) (2 * 2 ^ j) tb)).AlignedIn (2 ^ j) (2 * 2 ^ j) :=
  bisectLoop_keeps (fun _ h hgo => h.step hgo tooBig) n _ ⟨le_rfl, le_rfl, Nat.le_add_left .., j, two_mul _, dvd_rfl⟩

/-! ## The bracket of SQRT holds the root -/

/-- `LOWER * LOWER ≤ n < UPPER * UPPER` (41_sqrt.md R93). -/
def Work.HoldsRoot (n : Nat) (w : Work) : Prop := w.lower * w.lower ≤ n ∧ n < w.upper * w.upper

/-- A guess whose square is above `a` becomes UPPER, any other LOWER (41_sqrt.md R93). -/
theorem Work.HoldsRoot.step {a : Word} {w : Work} (h : w.HoldsRoot a.toNat) :
    (bisectStep (sqrtTooBig a) w).HoldsRoot a.toNat := by
  obtain ⟨hlo, hhi⟩ := h
  obtain ⟨hg, hs⟩ | ⟨hg, hs⟩ := bisectStep_cases (sqrtTooBig a) w <;> rw [hs]
  · exact ⟨hlo, of_decide_eq_true hg⟩
  · exact ⟨not_lt.1 (of_decide_eq_false hg), hhi⟩

/-- The same over the reals. -/
theorem Work.HoldsRoot.real {n : Nat} {w : Work} (h : w.HoldsRoot n) :
    (w.lower : ℝ) ≤ Real.sqrt n ∧ Real.sqrt n < w.upper := by
  obtain ⟨hlo, hhi⟩ := h
  constructor
  · refine Real.le_sqrt_of_sq_le ?_
    rw [sq]
    exact_mod_cast hlo
  · refine (Real.sqrt_lt (Nat.cast_nonneg _) (Nat.cast_nonneg _)).2 ?_
    rw [sq]
    exact_mod_cast hhi

/-- A rounded root stays between the ends of the bracket, either of which it may meet. -/
theorem Work.HoldsRoot.round_mem {n : Nat} {w : Work} (h : w.HoldsRoot n) :
    (w.lower : ℤ) ≤ round (Real.sqrt n) ∧ round (Real.sqrt n) ≤ w.upper := by
  obtain ⟨hlo, hhi⟩ := h.real
  rw [round_eq]
  constructor
  · rw [Int.le_floor, Int.cast_natCast]
    linarith
  · rw [← Int.lt_add_one_iff, Int.floor_lt, Int.cast_add, Int.cast_natCast, Int.cast_one]
    linarith

theorem sqrtSeedLower_eq {a : Word} (ha : a ≠ 0#32) : sqrtSeedLower a = 2 ^ (Nat.log 2 a.toNat / 2) := by
  rw [sqrtSeedLower, Nat.one_shiftLeft, log2Floor_toNat ha, Nat.shiftRight_eq_div_pow, pow_one]

theorem sqrtSeedLower_le {a : Word} (ha : a ≠ 0#32) : sqrtSeedLower a ≤ 2 ^ 15 := by
  have := log_toNat_lt a
  rw [sqrtSeedLower_eq ha]
  exact Nat.pow_le_pow_right two_pos (by omega)

/-- The octave of the root, from the octave of the operand (41_sqrt.md R92). -/
theorem sqrtSeed_holdsRoot {a : Word} (ha : a ≠ 0#32) (tb : Nat) :
    (bisectSeed (sqrtSeedLower a) (2 * sqrtSeedLower a) tb).HoldsRoot a.toNat := by
  rw [sqrtSeedLower_eq ha]
  simp only [Work.HoldsRoot, bisectSeed, ← pow_succ', ← pow_add]
  constructor
  · calc 2 ^ (Nat.log 2 a.toNat / 2 + Nat.log 2 a.toNat / 2) ≤ 2 ^ Nat.log 2 a.toNat :=
          Nat.pow_le_pow_right two_pos (by omega)
      _ ≤ a.toNat := Nat.pow_log_le_self 2 (BitVec.toNat_ne.1 ha)
  · calc a.toNat < 2 ^ (Nat.log 2 a.toNat + 1) := Nat.lt_pow_succ_log_self one_lt_two _
      _ ≤ _ := Nat.pow_le_pow_right two_pos (by omega)

/-- Settles O10: the start of Bisect in SQRT holds the root, read over the reals. -/
theorem sqrtSeedHoldsTheRoot : Obligations.SqrtSeedHoldsTheRoot := by
  intro a ha
  obtain ⟨hlo, hhi⟩ := (sqrtSeed_holdsRoot ha 0).real
  have hle := sqrtSeedLower_le ha
  exact ⟨hlo, hhi, hle, by omega⟩

/-- At the start and after every step of SQRT (41_sqrt.md R93). -/
theorem sqrtLoop_holdsRoot {a : Word} (ha : a ≠ 0#32) (tb maxIter n : Nat) :
    (bisectLoop maxIter (sqrtTooBig a) n (bisectSeed (sqrtSeedLower a) (2 * sqrtSeedLower a) tb)).HoldsRoot a.toNat :=
  bisectLoop_keeps (fun _ h _ => h.step) n _ (sqrtSeed_holdsRoot ha tb)

theorem sqrtLoop_alignedIn {a : Word} (ha : a ≠ 0#32) (tb maxIter n : Nat) :
    (bisectLoop maxIter (sqrtTooBig a) n
      (bisectSeed (sqrtSeedLower a) (2 * sqrtSeedLower a) tb)).AlignedIn (sqrtSeedLower a) (2 * sqrtSeedLower a) := by
  rw [sqrtSeedLower_eq ha]
  exact bisectLoop_alignedIn ..

/-- Settles O12: where the loop goes on the guess is strictly between ends that are at most `2^16`. -/
theorem sqrtProductsFit32Bits : Obligations.SqrtProductsFit32Bits := by
  intro a c n w ha hw hgo
  have hle := sqrtSeedLower_le ha
  have hal : w.AlignedIn (sqrtSeedLower a) (2 * sqrtSeedLower a) := hw ▸ sqrtLoop_alignedIn ha ..
  obtain ⟨m, hwidth, -, hmid⟩ := hal.halves hgo
  have hupper := hal.upper_le
  have hpos := Nat.two_pow_pos m
  rw [pow_succ] at hwidth
  have hguess : bracketMid w < 2 ^ 16 := by omega
  have hsq : bracketMid w * bracketMid w < 2 ^ 16 * 2 ^ 16 := Nat.mul_lt_mul'' hguess hguess
  refine ⟨by omega, by omega, by omega, by omega, by omega, ?_⟩
  rw [← BitVec.ofNat_mul, BitVec.toNat_ofNat]
  exact Nat.mod_eq_of_lt hsq

/-! ## What SQRT answers -/

theorem sqrtWork_holdsRoot {a : Word} (ha : a ≠ 0#32) (c : Config) : (sqrtWork c a).HoldsRoot a.toNat :=
  sqrtLoop_holdsRoot ha ..

theorem sqrtWork_alignedIn {a : Word} (ha : a ≠ 0#32) (c : Config) :
    (sqrtWork c a).AlignedIn (sqrtSeedLower a) (2 * sqrtSeedLower a) :=
  sqrtLoop_alignedIn ha ..

/-- SQRT's steps and the width of its final bracket (41_sqrt.md R94). -/
theorem sqrtWork_steps_width {a : Word} (ha : a ≠ 0#32) (c : Config) {j k : Nat} (hj : j = Nat.log 2 a.toNat / 2)
    (hk : k = bisectSteps c.sqrtToleranceBits c.sqrtMaxIterations j) :
    (sqrtWork c a).k = k ∧ (sqrtWork c a).upper = (sqrtWork c a).lower + 2 ^ (j - k) := by
  rw [sqrtWork, sqrtSeedLower_eq ha, ← hj, hk]
  exact bisect_steps_width ..

/-- SQRT completes with the midpoint of its final bracket. -/
theorem exec_sqrt_of_ne_zero {a : Word} (ha : a ≠ 0#32) (s : State) :
    exec (.sqrt a) s = .next (s.complete (bisectAnswer (sqrtWork s.cfg a))) :=
  exec_of_eval (congrArg some (if_neg ha))

theorem complete_bisectAnswer_value (w : Work) (s : State) :
    (s.complete (bisectAnswer w)).value = BitVec.ofNat 32 (bracketMid w) :=
  BitVec.ofInt_natCast ..

/-- VALUE holds SQRT's midpoint as it is. -/
theorem sqrt_value_toNat {a : Word} (ha : a ≠ 0#32) (s : State) :
    (s.complete (bisectAnswer (sqrtWork s.cfg a))).value.toNat = bracketMid (sqrtWork s.cfg a) := by
  have hal := sqrtWork_alignedIn ha s.cfg
  have hle := sqrtSeedLower_le ha
  have hupper := hal.upper_le
  have hmid := hal.bracketMid_mem
  rw [complete_bisectAnswer_value, BitVec.toNat_ofNat]
  exact Nat.mod_eq_of_lt (by omega)

/-- Settles O11: every step keeps the squares around `a`, and the answer is in the final bracket, which is inside the
seed and so between 1 and `2^16`. -/
theorem sqrtBracketHoldsTheRoot : Obligations.SqrtBracketHoldsTheRoot := by
  intro a s ha
  refine ⟨fun n w hw => hw ▸ sqrtLoop_holdsRoot ha .., _, exec_sqrt_of_ne_zero ha s, ?_⟩
  have hal := sqrtWork_alignedIn ha s.cfg
  obtain ⟨hmid_ge, hmid_lt⟩ := hal.bracketMid_mem
  have hlower := hal.lower_ge
  have hupper := hal.upper_le
  have hle := sqrtSeedLower_le ha
  have hpos : 0 < sqrtSeedLower a := sqrtSeedLower_eq ha ▸ Nat.two_pow_pos _
  rw [sqrt_value_toNat ha]
  exact ⟨hmid_ge, hmid_lt, by omega, by omega⟩

/-- The one stretch between multiples of `w` that holds the root starts at the integer root, rounded down. -/
theorem sqrt_div_mul_eq {n l w : Nat} (hdvd : w ∣ l) (hlo : l * l ≤ n) (hhi : n < (l + w) * (l + w)) :
    Nat.sqrt n / w * w = l := by
  obtain ⟨q, rfl⟩ := hdvd
  have hq : Nat.sqrt n / w = q := by
    refine Nat.div_eq_of_lt_le ?_ ?_
    · rw [mul_comm]
      exact Nat.le_sqrt.2 hlo
    · rw [Nat.succ_mul, mul_comm]
      exact Nat.sqrt_lt.2 hhi
  rw [hq, mul_comm]

/-- Settles O13: the final bracket is the aligned stretch of its width that holds the root, and the answer is its
middle. -/
theorem sqrtClosedForm : Obligations.SqrtClosedForm := by
  intro a s
  by_cases ha : a = 0#32
  · subst ha
    exact ⟨_, exec_of_eval rfl, rfl, fun _ => ⟨rfl, rfl⟩, fun h => absurd rfl h⟩
  refine ⟨_, exec_sqrt_of_ne_zero ha s, rfl, fun h => absurd h ha, ?_⟩
  rintro - j k w hj hk hw
  obtain ⟨hsteps, hwidth⟩ := sqrtWork_steps_width ha s.cfg hj hk
  obtain ⟨hlo, hhi⟩ := sqrtWork_holdsRoot ha s.cfg
  have hdvd := (sqrtWork_alignedIn ha s.cfg).width_dvd hwidth
  have hmid : bracketMid (sqrtWork s.cfg a) = (sqrtWork s.cfg a).lower + 2 ^ (j - k) / 2 := by
    rw [bracketMid_eq, hwidth]
    omega
  rw [hwidth] at hhi
  rw [complete_bisectAnswer_value, hw, sqrt_div_mul_eq hdvd hlo hhi, hmid]
  exact ⟨rfl, congrArg (BitVec.ofNat 8) hsteps⟩

/-! ## How near the answer is to the root -/

/-- With shift 6 and cap 10 it is the tolerance that stops SQRT, so the final width is within it. -/
theorem width_le_tolerance (j : Nat) : 2 ^ (j - bisectSteps 6 10 j) ≤ 2 ^ j / 64 + 1 := by
  have h : j - bisectSteps 6 10 j ≤ toleranceLog 6 j := by
    unfold bisectSteps toleranceLog
    split_ifs <;> omega
  simpa [bisectSeed, Nat.shiftRight_eq_div_pow] using (two_pow_le_tol_iff 6 j _).2 h

/-- In a bracket no wider than `r/64 + 1` the midpoint is at most `r/128 + 1` from the rounded root `r`, which the bound
of R96 allows. -/
theorem Work.HoldsRoot.bracketMid_near_round {n j : Nat} {w : Work} (h : w.HoldsRoot n) (hlo : 2 ^ j ≤ w.lower)
    (hwidth : w.upper ≤ w.lower + (2 ^ j / 64 + 1)) :
    100 * |(bracketMid w : ℤ) - round (Real.sqrt n)| ≤ 100 + round (Real.sqrt n) := by
  obtain ⟨hge, hle⟩ := h.round_mem
  have hmid := bracketMid_eq w
  rcases abs_cases ((bracketMid w : ℤ) - round (Real.sqrt n)) with ⟨habs, -⟩ | ⟨habs, -⟩ <;> rw [habs] <;> omega

/-- Settles O14: the final width is within the tolerance, and so the midpoint near the rounded root. -/
theorem sqrtAccuracy : Obligations.SqrtAccuracy := by
  intro a s ha htb hcap
  refine ⟨_, exec_sqrt_of_ne_zero ha s, ?_⟩
  obtain ⟨-, hwidth⟩ := sqrtWork_steps_width ha s.cfg rfl rfl
  rw [htb, hcap] at hwidth
  have hlower : 2 ^ (Nat.log 2 a.toNat / 2) ≤ (sqrtWork s.cfg a).lower :=
    sqrtSeedLower_eq ha ▸ (sqrtWork_alignedIn ha s.cfg).lower_ge
  have hnear := (sqrtWork_holdsRoot ha s.cfg).bracketMid_near_round hlower
    (hwidth.le.trans (Nat.add_le_add_left (width_le_tolerance _) _))
  rw [sqrt_value_toNat ha]
  refine Int.cast_le.1 (le_trans ?_ (Int.le_ceil (1 + (round (Real.sqrt a.toNat) : ℝ) / 100)))
  have hreal : (100 : ℝ) * (|(bracketMid (sqrtWork s.cfg a) : ℤ) - round (Real.sqrt a.toNat)| : ℤ) ≤
      100 + round (Real.sqrt a.toNat) := by
    exact_mod_cast hnear
  linarith

end Sys2Proof.Machine
end

section
/-! PROOFS. RSQRT bisects the octave that holds its target; its final bracket is bounded by guesses its product test
has told apart, the products fit 32 bits, and the bracket may still miss the target (42_rsqrt.md R101 to R109). -/

namespace Sys2Proof.Machine

/-! ## The seed of RSQRT is one octave -/

theorem rsqrtSeedLower_eq (n : Nat) : rsqrtSeedLower n = 2 ^ ((35 - n) / 2) := by
  rw [rsqrtSeedLower, Nat.one_shiftLeft]
  congr 2
  omega

/-- Every operand has a logarithm below 32; from 36 on the truncated subtraction would leave no octave. -/
theorem rsqrtSeedUpper_eq {n : Nat} (hn : n < 32) : rsqrtSeedUpper n = 2 * 2 ^ ((35 - n) / 2) := by
  rw [rsqrtSeedUpper, Nat.one_shiftLeft, ← pow_succ']
  congr 1
  omega

theorem rsqrtWork_eq {a : Word} (ha : a ≠ 0#32) (c : Config) :
    rsqrtWork c a = bisect (2 ^ ((35 - Nat.log 2 a.toNat) / 2)) (2 * 2 ^ ((35 - Nat.log 2 a.toNat) / 2))
      c.rsqrtToleranceBits c.rsqrtMaxIterations (rsqrtTooBig a) := by
  rw [rsqrtWork, log2Floor_toNat ha, rsqrtSeedLower_eq, rsqrtSeedUpper_eq (log_toNat_lt a)]

/-- RSQRT's steps and the width of its final bracket (42_rsqrt.md R103). -/
theorem rsqrtWork_steps_width {a : Word} (ha : a ≠ 0#32) (c : Config) {m k : Nat}
    (hm : m = (35 - Nat.log 2 a.toNat) / 2) (hk : k = bisectSteps c.rsqrtToleranceBits c.rsqrtMaxIterations m) :
    (rsqrtWork c a).k = k ∧ (rsqrtWork c a).upper = (rsqrtWork c a).lower + 2 ^ (m - k) := by
  rw [rsqrtWork_eq ha, ← hm, hk]
  exact bisect_steps_width ..

theorem rsqrtWork_alignedIn {a : Word} (ha : a ≠ 0#32) (c : Config) :
    (rsqrtWork c a).AlignedIn (2 ^ ((35 - Nat.log 2 a.toNat) / 2)) (2 * 2 ^ ((35 - Nat.log 2 a.toNat) / 2)) := by
  rw [rsqrtWork_eq ha]
  exact bisectLoop_alignedIn ..

/-! ## The target over the reals -/

theorem rsqrtTarget_eq (a : Nat) : (2 : ℝ) ^ 18 / Real.sqrt a = Real.sqrt (2 ^ 36 / a) := by
  rw [Real.sqrt_div (by positivity), show (2 : ℝ) ^ 36 = (2 ^ 18) ^ 2 by norm_num, Real.sqrt_sq (by positivity)]

/-- A number is at most the target when its square times the operand is at most `2^36`. -/
theorem le_rsqrtTarget_iff {a : Nat} (ha : a ≠ 0) (g : Nat) :
    (g : ℝ) ≤ 2 ^ 18 / Real.sqrt a ↔ g ^ 2 * a ≤ 2 ^ 36 := by
  have hpos : (0 : ℝ) < a := by exact_mod_cast Nat.pos_of_ne_zero ha
  rw [rsqrtTarget_eq, Real.le_sqrt (Nat.cast_nonneg g) (by positivity), le_div_iff₀ hpos]
  exact_mod_cast Iff.rfl

theorem rsqrtTarget_le_iff {a : Nat} (ha : a ≠ 0) (g : Nat) :
    2 ^ 18 / Real.sqrt a ≤ (g : ℝ) ↔ 2 ^ 36 ≤ g ^ 2 * a := by
  have hpos : (0 : ℝ) < a := by exact_mod_cast Nat.pos_of_ne_zero ha
  rw [rsqrtTarget_eq, Real.sqrt_le_left (Nat.cast_nonneg g), div_le_iff₀ hpos]
  exact_mod_cast Iff.rfl

/-- The octave of the target, from the octave of the operand (42_rsqrt.md R102). -/
theorem rsqrtSeed_sq_mul {a : Nat} (ha : a ≠ 0) (hn : Nat.log 2 a < 32) :
    rsqrtSeedLower (Nat.log 2 a) ^ 2 * a ≤ 2 ^ 36 ∧ 2 ^ 36 ≤ rsqrtSeedUpper (Nat.log 2 a) ^ 2 * a := by
  rw [rsqrtSeedLower_eq, rsqrtSeedUpper_eq hn, ← pow_succ', ← pow_mul, ← pow_mul]
  constructor
  · calc 2 ^ ((35 - Nat.log 2 a) / 2 * 2) * a
        ≤ 2 ^ ((35 - Nat.log 2 a) / 2 * 2) * 2 ^ (Nat.log 2 a + 1) :=
          Nat.mul_le_mul_left _ (Nat.lt_pow_succ_log_self one_lt_two a).le
      _ = 2 ^ ((35 - Nat.log 2 a) / 2 * 2 + (Nat.log 2 a + 1)) := (pow_add ..).symm
      _ ≤ 2 ^ 36 := Nat.pow_le_pow_right two_pos (by omega)
  · calc 2 ^ 36 ≤ 2 ^ (((35 - Nat.log 2 a) / 2 + 1) * 2 + Nat.log 2 a) := Nat.pow_le_pow_right two_pos (by omega)
      _ = 2 ^ (((35 - Nat.log 2 a) / 2 + 1) * 2) * 2 ^ Nat.log 2 a := pow_add ..
      _ ≤ _ := Nat.mul_le_mul_left _ (Nat.pow_log_le_self 2 ha)

/-- Settles O17: the seed is one octave, and its ends meet the target's bound in squares. -/
theorem rsqrtSeedHoldsTheTarget : Obligations.RsqrtSeedHoldsTheTarget := by
  rintro a n ha rfl
  have hlt := log_toNat_lt a
  have ha' : a.toNat ≠ 0 := BitVec.toNat_ne.1 ha
  obtain ⟨hlo, hhi⟩ := rsqrtSeed_sq_mul ha' hlt
  refine ⟨rsqrtSeedLower_eq _, ?_, by omega, by omega, (le_rsqrtTarget_iff ha' _).2 hlo,
    (rsqrtTarget_le_iff ha' _).2 hhi⟩
  rw [rsqrtSeedUpper_eq hlt, rsqrtSeedLower_eq]

/-! ## The product stays below `2^32` -/

theorem rsqrtProduct_eq (n a g : Nat) :
    rsqrtProduct n a g = if 13 ≤ n then g * g * (a / 64) else g / 8 * (g / 8) * a := by
  simp only [rsqrtProduct, Nat.shiftRight_eq_div_pow, ge_iff_le]

theorem mul_self_lt_two_pow {g x e : Nat} (hg : g < 2 ^ x) (he : 2 * x ≤ e) : g * g < 2 ^ e :=
  calc g * g < 2 ^ x * 2 ^ x := Nat.mul_lt_mul'' hg hg
    _ = 2 ^ (2 * x) := by rw [← pow_add, two_mul]
    _ ≤ 2 ^ e := Nat.pow_le_pow_right two_pos he

/-- The square of an `x`-bit number times a `y`-bit one has at most `2x + y` bits. -/
theorem mul_self_mul_lt_two_pow {g b x y e : Nat} (hg : g < 2 ^ x) (hb : b < 2 ^ y) (he : 2 * x + y ≤ e) :
    g * g * b < 2 ^ e :=
  calc g * g * b < 2 ^ (2 * x) * 2 ^ y := Nat.mul_lt_mul'' (mul_self_lt_two_pow hg le_rfl) hb
    _ = 2 ^ (2 * x + y) := (pow_add ..).symm
    _ ≤ 2 ^ e := Nat.pow_le_pow_right two_pos he

/-- Dividing a number below `2^x` by `2^s` takes `s` bits off it. -/
theorem div_lt_two_pow_sub {v x s : Nat} (hv : v < 2 ^ x) (hs : s ≤ x) : v / 2 ^ s < 2 ^ (x - s) :=
  Nat.div_lt_of_lt_mul (by rwa [← pow_add, Nat.add_sub_cancel' hs])

/-- 42_rsqrt.md R106, regime by regime, for every guess below the seed's upper end. -/
theorem rsqrtProduct_fits {a g : Nat} (hn : Nat.log 2 a < 32) (hg : g < rsqrtSeedUpper (Nat.log 2 a)) :
    rsqrtProduct (Nat.log 2 a) a g < 2 ^ 32 ∧ (13 ≤ Nat.log 2 a → g * g < 2 ^ 32) ∧
    (Nat.log 2 a < 13 → g / 8 * (g / 8) < 2 ^ 32) := by
  have ha : a < 2 ^ (Nat.log 2 a + 1) := Nat.lt_pow_succ_log_self one_lt_two a
  rw [rsqrtSeedUpper_eq hn, ← pow_succ'] at hg
  have hg8 : g / 8 < 2 ^ ((35 - Nat.log 2 a) / 2 + 1 - 3) := div_lt_two_pow_sub (s := 3) hg (by omega)
  rw [rsqrtProduct_eq]
  refine ⟨?_, fun hhigh => mul_self_lt_two_pow hg (by omega), fun _ => mul_self_lt_two_pow hg8 (by omega)⟩
  split_ifs with hreg
  · have ha64 : a / 64 < 2 ^ (Nat.log 2 a + 1 - 6) := div_lt_two_pow_sub (s := 6) ha (by omega)
    exact mul_self_mul_lt_two_pow hg ha64 (by omega)
  · exact mul_self_mul_lt_two_pow hg8 ha (by omega)

/-- Settles O19: the guess is below the upper end of its bracket, which is inside the seed. -/
theorem rsqrtProductsFit32Bits : Obligations.RsqrtProductsFit32Bits := by
  rintro a c j n w - rfl hw -
  have hlt := log_toNat_lt a
  have hal : w.AlignedIn (rsqrtSeedLower (Nat.log 2 a.toNat)) (rsqrtSeedUpper (Nat.log 2 a.toNat)) := by
    rw [hw, rsqrtSeedLower_eq, rsqrtSeedUpper_eq hlt]
    exact bisectLoop_alignedIn ..
  have hguess := hal.bracketMid_mem.2.trans_le hal.upper_le
  exact ⟨hguess, rsqrtProduct_fits hlt hguess⟩

/-! ## What RSQRT answers -/

/-- RSQRT completes with the midpoint of its final bracket. -/
theorem exec_rsqrt_of_ne_zero {a : Word} (ha : a ≠ 0#32) (s : State) :
    exec (.rsqrt a) s = .next (s.complete (bisectAnswer (rsqrtWork s.cfg a))) :=
  exec_of_eval (congrArg some (if_neg ha))

theorem complete_bisectAnswer_iters (w : Work) (s : State) :
    (s.complete (bisectAnswer w)).iters = BitVec.ofNat 8 w.k := rfl

/-- Settles O15: the sentinel is the whole answer. -/
theorem rsqrtZeroSentinel : Obligations.RsqrtZeroSentinel := fun _ =>
  ⟨_, exec_of_eval rfl, rfl, rfl, rfl⟩

theorem bisectSteps_default (j : Nat) : bisectSteps 6 10 j = if j < 6 then j else if j = 6 then 5 else 6 := by
  unfold bisectSteps
  split_ifs <;> omega

/-- Settles O16: the step count of Bisect for the octave of the seed, which with shift 6 and cap 10 has three cases. -/
theorem rsqrtStepCount : Obligations.RsqrtStepCount := by
  rintro a s n ha rfl
  have hlt := log_toNat_lt a
  obtain ⟨hsteps, -⟩ := rsqrtWork_steps_width ha s.cfg rfl rfl
  refine ⟨?_, hsteps, fun htb hcap => ⟨_, exec_rsqrt_of_ne_zero ha s, ?_⟩⟩
  · rw [rsqrtSeedUpper_eq hlt, rsqrtSeedLower_eq, two_mul, Nat.add_sub_cancel]
  rw [htb, hcap, bisectSteps_default] at hsteps
  rw [complete_bisectAnswer_iters, hsteps]
  generalize Nat.log 2 a.toNat = n at hlt
  refine ⟨fun h => ⟨by omega, ?_⟩, fun h => ?_, fun h => ?_⟩
  · rw [if_neg (by omega), if_neg (by omega)]
  · have hoctave : (35 - n) / 2 = 6 := by omega
    rw [hoctave]
    exact ⟨rfl, rfl⟩
  · have hoctave : (35 - n) / 2 < 6 := by omega
    rw [if_pos hoctave, BitVec.toNat_ofNat]
    exact ⟨hoctave, Nat.mod_eq_of_lt (by omega)⟩

/-- Each end of the bracket is the seed's own or a guess that the comparison put there (42_rsqrt.md R108). -/
def Work.EndsTested (tooBig : Nat → Bool) (lo hi : Nat) (w : Work) : Prop :=
  (w.lower = lo ∨ tooBig w.lower = false) ∧ (w.upper = hi ∨ tooBig w.upper = true)

theorem Work.EndsTested.step {tooBig : Nat → Bool} {lo hi : Nat} {w : Work} (h : w.EndsTested tooBig lo hi) :
    (bisectStep tooBig w).EndsTested tooBig lo hi := by
  obtain ⟨hlo, hhi⟩ := h
  obtain ⟨hg, hs⟩ | ⟨hg, hs⟩ := bisectStep_cases tooBig w <;> rw [hs]
  · exact ⟨hlo, .inr hg⟩
  · exact ⟨.inr hg, hhi⟩

theorem bisect_endsTested (lo hi tb maxIter : Nat) (tooBig : Nat → Bool) :
    (bisect lo hi tb maxIter tooBig).EndsTested tooBig lo hi :=
  bisectLoop_keeps (fun _ h _ => h.step) _ _ ⟨.inl rfl, .inl rfl⟩

theorem rsqrtTooBig_eq {a : Word} (ha : a ≠ 0#32) (g : Nat) :
    rsqrtTooBig a g = decide (2 ^ 30 < rsqrtProduct (Nat.log 2 a.toNat) a.toNat g) := by
  rw [rsqrtTooBig, log2Floor_toNat ha, operandU32]

/-- What the comparisons of RSQRT say of the ends of its final bracket (42_rsqrt.md R108). -/
theorem rsqrtWork_endsTested {a : Word} (ha : a ≠ 0#32) (c : Config) {n : Nat} (hn : n = Nat.log 2 a.toNat) :
    ((rsqrtWork c a).lower = 2 ^ ((35 - n) / 2) ∨ rsqrtProduct n a.toNat (rsqrtWork c a).lower ≤ 2 ^ 30) ∧
    ((rsqrtWork c a).upper = 2 * 2 ^ ((35 - n) / 2) ∨ 2 ^ 30 < rsqrtProduct n a.toNat (rsqrtWork c a).upper) := by
  have h : (rsqrtWork c a).EndsTested (rsqrtTooBig a) (2 ^ ((35 - n) / 2)) (2 * 2 ^ ((35 - n) / 2)) := by
    rw [rsqrtWork_eq ha, ← hn]
    exact bisect_endsTested ..
  simpa only [Work.EndsTested, rsqrtTooBig_eq ha, ← hn, decide_eq_true_eq, decide_eq_false_iff_not, not_lt] using h

theorem bracketMid_eq_lower_add_half {w : Work} {width : Nat} (h : w.upper = w.lower + width) :
    bracketMid w = w.lower + width / 2 := by
  rw [bracketMid_eq, h]
  omega

/-- Settles O18: the stretch is the final bracket, aligned inside the seed, with ends that the comparison has tested. -/
theorem rsqrtResult : Obligations.RsqrtResult := by
  rintro a s n m k w ha hn hm hk rfl p hp
  have hproduct (g : Nat) : rsqrtProduct n a.toNat g = p g := by rw [rsqrtProduct_eq, hp]
  obtain ⟨hsteps, hwidth⟩ := rsqrtWork_steps_width ha s.cfg (hn ▸ hm) hk
  have hal := rsqrtWork_alignedIn ha s.cfg
  rw [← hn, ← hm] at hal
  obtain ⟨hlo, hhi⟩ := rsqrtWork_endsTested ha s.cfg hn
  rw [← hm, hproduct] at hlo
  rw [← hm, hproduct, hwidth] at hhi
  refine ⟨_, (rsqrtWork s.cfg a).lower, exec_rsqrt_of_ne_zero ha s, rfl, hal.lower_ge, hwidth ▸ hal.upper_le,
    hal.width_dvd hwidth, hlo, hhi, ?_, ?_⟩
  · rw [complete_bisectAnswer_value, bracketMid_eq_lower_add_half hwidth]
  · rw [complete_bisectAnswer_iters, hsteps]

/-! ## The bracket may miss the target -/

/-- Settles O20: the high regime drops the low six bits of the operand, and so puts LOWER above the target. -/
theorem rsqrtBracketMayMissTheTarget : Obligations.RsqrtBracketMayMissTheTarget := by
  intro c htb hcap
  rw [rsqrtWork, htb, hcap]
  refine ⟨by decide, by decide, ?_⟩
  have habove := (le_rsqrtTarget_iff (a := 10809) (by decide) 2528).not.2 (by decide)
  exact_mod_cast not_le.1 habove

end Sys2Proof.Machine
end

section
/-! PROOFS. The blend at its ends, and RSQRTTBL: the point its split gives, the blend it answers there, its range, and
what it does outside its domain (43_rsqrt_table.md R115 to R121). -/

namespace Sys2Proof.Machine

/-! ## The blend at the full fraction -/

/-- Under floor division the half added for rounding never carries. -/
theorem mul_two_pow_add_half_ediv (d : Int) (b : Nat) :
    (d * (2 ^ b : Nat) + (2 ^ b >>> 1 : Nat)) / (2 ^ b : Nat) = d := by
  have hm : ((2 ^ b : Nat) : Int) ≠ 0 := by positivity
  have hhalf : ((2 ^ b >>> 1 : Nat) : Int) < (2 ^ b : Nat) := by exact_mod_cast half_lt_pow b
  rw [add_comm, Int.add_mul_ediv_right _ _ hm, Int.ediv_eq_zero_of_lt (Int.natCast_nonneg _) hhalf, zero_add]

theorem lerp_fdiv_full (t0 t1 : Int) (b : Nat) : lerp .fdiv t0 t1 (2 ^ b) (2 ^ b) = t1 := by
  rw [lerp, interpDiv, Int.fdiv_eq_ediv_of_nonneg _ (Int.natCast_nonneg _), mul_two_pow_add_half_ediv]
  omega

theorem lerp_full_of_le (d : InterpDiv) {t0 t1 : Int} (h : t0 ≤ t1) (b : Nat) :
    lerp d t0 t1 (2 ^ b) (2 ^ b) = t1 := by
  rw [lerp_rising d h, mul_two_pow_add_half_ediv]
  omega

/-- With denominator 1 there is nothing to round. -/
theorem lerp_tdiv_full_one (t0 t1 : Int) : lerp .tdiv t0 t1 (2 ^ 0) (2 ^ 0) = t1 := by
  simp [lerp, interpDiv]

/-- On a falling pair the numerator is negative and, by the half in it, no multiple of the denominator: truncation
rounds it up (90_conflicts.md C15). -/
theorem lerp_tdiv_full_of_lt {t0 t1 : Int} (h : t1 < t0) {b : Nat} (hb : 1 ≤ b) :
    lerp .tdiv t0 t1 (2 ^ b) (2 ^ b) = t1 + 1 := by
  obtain ⟨k, rfl⟩ := Nat.exists_eq_add_of_le' hb
  have hfloor := mul_two_pow_add_half_ediv (t1 - t0) (k + 1)
  have hhalf : 2 ^ (k + 1) >>> 1 = 2 ^ k := by rw [Nat.shiftRight_eq_div_pow, pow_succ]; omega
  have hm : (2 ^ (k + 1) : Nat) = 2 * 2 ^ k := pow_succ' 2 k
  have hk := Nat.two_pow_pos k
  rw [hhalf] at hfloor
  rw [lerp, interpDiv, hhalf, Int.tdiv_eq_ediv, hfloor, Int.sign_eq_one_of_pos (by positivity), if_neg]
  · omega
  · rintro (hneg | hdvd)
    · have : (t1 - t0) * (2 ^ (k + 1) : Nat) ≤ -1 * (2 ^ (k + 1) : Nat) :=
        mul_le_mul_of_nonneg_right (by omega) (Int.natCast_nonneg _)
      omega
    · have hdvd_half : 2 ^ (k + 1) ∣ 2 ^ k := by
        exact_mod_cast (Int.dvd_add_right (Dvd.intro_left _ rfl)).1 hdvd
      have := Nat.le_of_dvd hk hdvd_half
      omega

/-- Settles O21: the full fraction adds the whole difference and a half; only truncation of a falling pair sees the
half. -/
theorem lerpEnds : Obligations.LerpEnds := by
  intro t0 t1 b d
  refine ⟨lerp_zero d t0 t1 b, lerp_fdiv_full t0 t1 b, ?_, fun h hb => lerp_tdiv_full_of_lt h hb, ?_⟩
  · rintro (h | rfl)
    · exact lerp_full_of_le .tdiv h b
    · exact lerp_tdiv_full_one t0 t1
  · intro h f
    rw [lerp_rising .tdiv h, lerp_rising .fdiv h]

/-! ## The point a split gives -/

theorem rsqrtSplit_default {c : Config} (h : c.rsqrtTableSplit = .default) (a : Word) :
    rsqrtSplit c a = some (splitAt (24 - c.rsqrtTableBits) (a.toNat - 2 ^ 22)) := by
  simp only [rsqrtSplit, h]

theorem rsqrtSplit_regions {c : Config} {rs : List SplitRegion} (h : c.rsqrtTableSplit = .regions rs) (a : Word) :
    rsqrtSplit c a = splitRegions rs (a.toNat - 2 ^ 22) := by
  simp only [rsqrtSplit, h]

theorem splitAt_eq (fb pos : Nat) : splitAt fb pos = ⟨pos / 2 ^ fb, pos % 2 ^ fb, 2 ^ fb⟩ := by
  rw [splitAt, Nat.shiftRight_eq_div_pow]

/-- The operand behind the stretches `before` reads in the next one. -/
theorem splitRegions_append_cons (before after : List SplitRegion) {r : SplitRegion} {k : Nat} (hk : k < r.size) :
    splitRegions (before ++ r :: after) ((before.map SplitRegion.size).sum + k) =
      some (splitAt r.fracBits (r.start + k)) := by
  induction before with
  | nil => simp [splitRegions, hk]
  | cons x xs ih => simpa [splitRegions, Nat.add_assoc] using ih

/-- The default split puts the `3 * 2^22` operands of the domain on `3 * 2^(RTB−2)` pairs of entries
(43_rsqrt_table.md R120). -/
theorem default_idx_lt {rtb d : Nat} (h2 : 2 ≤ rtb) (h24 : rtb ≤ 24) (hd : d < 3 * 2 ^ 22) :
    (splitAt (24 - rtb) d).idx < 3 * 2 ^ (rtb - 2) := by
  have hcells : 3 * 2 ^ (rtb - 2) * 2 ^ (24 - rtb) = 3 * 2 ^ 22 := by
    rw [mul_assoc, ← pow_add]
    congr 2
    omega
  rw [splitAt_eq, Nat.div_lt_iff_lt_mul (Nat.two_pow_pos _), hcells]
  exact hd

/-- Settles O22: a quarter of the table's `2^RTB` pairs lies above the domain. -/
theorem rsqrtTblIndexBounds : Obligations.RsqrtTblIndexBounds := by
  intro c a hs h2 h24 hlo hhi
  have hidx := default_idx_lt h2 h24 (d := a.toNat - 2 ^ 22) (by omega)
  have hquarter : 2 ^ c.rsqrtTableBits = 4 * 2 ^ (c.rsqrtTableBits - 2) := by
    rw [← pow_sub_mul_pow 2 h2, mul_comm]
    rfl
  exact ⟨_, rsqrtSplit_default hs a, by omega, by omega, by omega, fun hlen => by omega⟩

/-! ## RSQRTTBL in its domain -/

theorem complete_value_toNat_of_u16 {v : Int} (h0 : 0 ≤ v) (h1 : v < 2 ^ 16) (k : Nat) (s : State) :
    ((s.complete ⟨v, k⟩).value.toNat : Int) = v := by
  rw [State.complete_value, BitVec.toNat_ofInt, Int.toNat_of_nonneg (Int.emod_nonneg _ (by norm_num))]
  exact Int.emod_eq_of_lt h0 (by norm_num; omega)

/-- An answer of RSQRTTBL is the blend at the point its split gives, without steps (43_rsqrt_table.md R118). -/
theorem rsqrtTblAnswer_cases {c : Config} {a : Word} {r : Answer} (h : rsqrtTblAnswer c a = some r) :
    ∃ p, rsqrtSplit c a = some p ∧ lerpTable c.interpDiv c.rsqrtTable p = some r.value ∧ r.iters = 0 := by
  unfold rsqrtTblAnswer at h
  split at h
  · split at h
    · cases h
      exact ⟨_, ‹_›, ‹_›, rfl⟩
    · cases h
  · cases h

/-- RSQRTTBL completes with the blend of the two entries at the point its split gives (43_rsqrt_table.md R118). -/
theorem rsqrttbl_completes {a : Word} {s : State} (hw : s.cfg.wf = true) (ha : inRsqrtDomain a = true) :
    ∃ t p t0 t1, exec (.rsqrttbl a) s = .next t ∧ t.phase = .done ∧ t.iters = 0#8 ∧
      rsqrtSplit s.cfg a = some p ∧ s.cfg.rsqrtTable[p.idx]? = some t0 ∧ s.cfg.rsqrtTable[p.idx + 1]? = some t1 ∧
      (t.value.toNat : Int) = lerp s.cfg.interpDiv t0.toNat t1.toNat p.frac p.m := by
  obtain ⟨v, hv, h0, h1⟩ := rsqrtTblAnswer_eq_some_u16 hw ha
  obtain ⟨p, hp, hblend, -⟩ := rsqrtTblAnswer_cases hv
  obtain ⟨t0, t1, ht0, ht1, hlerp⟩ := lerpTable_cases hblend
  have heval : eval s.cfg (.rsqrttbl a) = some ⟨v, 0⟩ := by rw [eval, if_pos ha, hv]
  exact ⟨_, p, t0, t1, exec_of_eval heval, rfl, rfl, hp, ht0, ht1,
    (complete_value_toNat_of_u16 h0 h1 0 s).trans hlerp⟩

/-- Settles O24: the answer is the blend at the split's point, and a stretch is found behind the ones before it. -/
theorem rsqrtTblBlendsAtTheSplitPoint : Obligations.RsqrtTblBlendsAtTheSplitPoint := by
  intro a s hw hlo hhi
  refine ⟨rsqrttbl_completes hw ((inRsqrtDomain_iff a).2 ⟨hlo, hhi⟩), ?_⟩
  intro before after r k hs ha hk
  have hoff : a.toNat - 2 ^ 22 = (before.map SplitRegion.size).sum + k := by omega
  rw [rsqrtSplit_regions hs, hoff, splitRegions_append_cons before after hk, splitAt_eq]

/-- Settles O23: under the default split the point is the quotient and the remainder of `d` by `2^FB`. -/
theorem rsqrtTblResult : Obligations.RsqrtTblResult := by
  rintro a s fb d hw hs ha hhi rfl
  obtain ⟨t, p, t0, t1, hx, hphase, hiters, hp, ht0, ht1, hv⟩ :=
    rsqrttbl_completes hw ((inRsqrtDomain_iff a).2 ⟨by omega, hhi⟩)
  rw [rsqrtSplit_default hs, ha, Nat.add_sub_cancel_left, splitAt_eq] at hp
  obtain rfl := Option.some.inj hp
  rw [lerp, Nat.shiftRight_eq_div_pow, pow_one] at hv
  refine ⟨t, t0, t1, hx, hphase, hiters, ht0, ht1, ?_, ?_⟩
  · intro hd
    rw [hv, hd, interpDiv]
  · intro hd
    rw [hv, hd, interpDiv]

/-- Settles O25: a remainder by the denominator stays below it, and up to there the blend lies between its entries. -/
theorem rsqrtTblBetweenNeighbours : Obligations.RsqrtTblBetweenNeighbours := by
  intro a s hw hlo hhi
  have ha := (inRsqrtDomain_iff a).2 ⟨hlo, hhi⟩
  obtain ⟨t, p, t0, t1, hx, hphase, hiters, hp, ht0, ht1, hv⟩ := rsqrttbl_completes hw ha
  obtain ⟨fb, pos, hsplit, -⟩ := rsqrtSplit_inside hw ha
  obtain rfl := Option.some.inj (hp.symm.trans hsplit)
  have hfrac : (splitAt fb pos).frac < (splitAt fb pos).m := Nat.mod_lt _ (Nat.two_pow_pos fb)
  obtain ⟨hmin, hmax⟩ : min (t0.toNat : Int) t1.toNat ≤ t.value.toNat ∧
      (t.value.toNat : Int) ≤ max (t0.toNat : Int) t1.toNat :=
    hv ▸ lerp_between s.cfg.interpDiv t0.toNat t1.toNat hfrac.le
  have h0 := t0.isLt
  have h1 := t1.isLt
  have hu16 : t.value.toNat ≤ 65535 := by omega
  have hsigned : t.value.toInt = t.value.toNat := BitVec.toInt_eq_toNat_of_lt (by omega)
  exact ⟨t, _, t0, t1, hx, hphase, hiters, hp, hfrac, ht0, ht1, by omega, by omega, hu16, by omega⟩

/-! ## RSQRTTBL outside its domain -/

theorem exec_rsqrttbl_of_draw {a : Word} {s : State} (ha : inRsqrtDomain a = false) (ho : s.cfg.rsqrtOod = .draw) :
    exec (.rsqrttbl a) s = .next (s.complete (outOfDomainAnswer s.draws a)) := by
  simp [exec, execRsqrtTbl, ha, ho]

theorem exec_rsqrttbl_of_refuse {a : Word} {s : State} (ha : inRsqrtDomain a = false)
    (ho : s.cfg.rsqrtOod = .refuse) : exec (.rsqrttbl a) s = .refused (.rsqrtTableOutOfDomain a) := by
  simp [exec, execRsqrtTbl, ha, ho]

/-- Settles O26: the drawn answer ends the request as any other does. -/
theorem rsqrtTblOutOfDomain : Obligations.RsqrtTblOutOfDomain := by
  intro a s hout
  have ha : inRsqrtDomain a = false := by
    rw [← Bool.not_eq_true, inRsqrtDomain_iff]
    omega
  exact ⟨fun ho => ⟨_, exec_rsqrttbl_of_draw ha ho, rfl, rfl, rfl, rfl, rfl, rfl⟩, exec_rsqrttbl_of_refuse ha⟩

end Sys2Proof.Machine
end

section
/-! PROOFS. SIN and COS: the fields of an angle and the point they read at, the blend at the mirrored position in a
quarter turn, and from it the quadrant points, the period, the odd symmetry and the range (44_sincos.md R125 to R135).
-/

namespace Sys2Proof.Machine

/-! ## The fields of an angle -/

/-- The angle bits under the table index, the fraction and the two quadrant bits (44_sincos.md R126). -/
theorem angleBits_eq_of_wf {c : Config} (hw : c.wf = true) : c.angleBits = c.sinTableBits + sinFracBits c + 2 := by
  obtain ⟨-, hb, -⟩ := c.wf_iff.1 hw
  unfold sinFracBits
  omega

/-- A quarter turn holds one fraction range for each pair of entries; a half turn two quarters, a full turn two halves
(44_sincos.md R125). -/
theorem turn_powers_of_wf {c : Config} (hw : c.wf = true) :
    2 ^ (c.angleBits - 2) = 2 ^ c.sinTableBits * 2 ^ sinFracBits c ∧
    2 ^ (c.angleBits - 1) = 2 ^ (c.angleBits - 2) * 2 ∧ 2 ^ c.angleBits = 2 ^ (c.angleBits - 1) * 2 := by
  rw [angleBits_eq_of_wf hw]
  exact ⟨pow_add .., pow_succ .., pow_succ ..⟩

theorem angleOf_eq (c : Config) (a : Word) : angleOf c a = a.toNat % 2 ^ c.angleBits := by
  rw [angleOf, field_eq, pow_zero, Nat.div_one]

/-- Of the angle only one bit lies above the half turn. -/
theorem div_half_turn_lt_two {c : Config} (hw : c.wf = true) {ang : Nat} (ha : ang < 2 ^ c.angleBits) :
    ang / 2 ^ (c.angleBits - 1) < 2 := by
  obtain ⟨-, -, hfull⟩ := turn_powers_of_wf hw
  exact Nat.div_lt_of_lt_mul (hfull ▸ ha)

/-- The fields of 44_sincos.md R126, as quotients and remainders. -/
theorem angleFields_eq {c : Config} (hw : c.wf = true) {ang : Nat} (ha : ang < 2 ^ c.angleBits) :
    angleFields c ang = ⟨ang / 2 ^ (c.angleBits - 1), ang / 2 ^ (c.angleBits - 2) % 2,
      ang / 2 ^ sinFracBits c % 2 ^ c.sinTableBits, ang % 2 ^ sinFracBits c⟩ := by
  simp only [angleFields, field_eq, pow_one, pow_zero, Nat.div_one, Nat.mod_eq_of_lt (div_half_turn_lt_two hw ha)]

/-- The sign of SIN is that of the half turn the angle lies in. -/
theorem angleFields_h_eq_one_iff {c : Config} (hw : c.wf = true) {ang : Nat} (ha : ang < 2 ^ c.angleBits) :
    (angleFields c ang).h = 1 ↔ 2 ^ (c.angleBits - 1) ≤ ang := by
  have hlt := div_half_turn_lt_two hw ha
  rw [angleFields_eq hw ha, ← Nat.one_le_div_iff (Nat.two_pow_pos _)]
  exact ⟨fun h => h.ge, fun h => le_antisymm (Nat.lt_succ_iff.1 hlt) h⟩

/-- Settles O27: fields stay below their powers of two, so what is subtracted from the ends stays inside. -/
theorem sinIndexBounds : Obligations.SinIndexBounds := by
  rintro c ang i f hw - rfl rfl
  obtain ⟨hidx, -⟩ := sinPoint_inside c ang
  have hq : (angleFields c ang).q < 2 := field_lt _ _ 1
  have hi : (angleFields c ang).i < 2 ^ c.sinTableBits := field_lt _ _ _
  have hf : (angleFields c ang).f < 2 ^ sinFracBits c := field_lt _ _ _
  have hlen := Config.sinTable_length_of_wf hw
  refine ⟨by omega, fun h => ⟨by omega, by omega, hf.le, by simp [sinPoint, h]⟩, fun h => ⟨by omega, hf.le, ?_⟩,
    by omega, by omega⟩
  refine ⟨2 ^ c.sinTableBits - 1 - (angleFields c ang).i, 2 ^ sinFracBits c - (angleFields c ang).f, ?_, ?_, ?_, ?_, ?_⟩
  · push_cast [Nat.le_sub_one_of_lt hi, Nat.one_le_two_pow]
    rfl
  · push_cast [hf.le]
    rfl
  · omega
  · exact Nat.sub_le ..
  · simp [sinPoint, h]

/-! ## Completion of SIN and COS -/

theorem eval_sin (c : Config) (a : Word) : eval c (.sin a) = sinOfAngle c (a.toNat % 2 ^ c.angleBits) := by
  rw [eval, sinAnswer, angleOf_eq]

theorem eval_cos (c : Config) (a : Word) :
    eval c (.cos a) = sinOfAngle c ((a.toNat + 2 ^ (c.angleBits - 2)) % 2 ^ c.angleBits) := by
  rw [eval, cosAnswer, angleOf_eq, Nat.mod_add_mod]

/-- A request that reads the sine of an angle completes with it, and its VALUE is the signed number. -/
theorem completes_with_sinOfAngle {s : State} (hw : s.cfg.wf = true) {i : Instr} {ang : Nat}
    (h : eval s.cfg i = sinOfAngle s.cfg ang) :
    ∃ t v, exec i s = .next t ∧ t.phase = .done ∧ t.iters = 0#8 ∧ sinOfAngle s.cfg ang = some ⟨v, 0⟩ ∧
      t.value.toInt = v := by
  obtain ⟨v, hv, hlo, hhi⟩ := sinOfAngle_eq_some_i17 hw ang
  refine ⟨_, v, exec_of_eval (h.trans hv), rfl, rfl, hv, ?_⟩
  rw [State.complete_value, BitVec.toInt_ofInt]
  exact Int.bmod_eq_of_le (by norm_num; omega) (by norm_num; omega)

/-- Two requests that read the sine of one angle complete in one state. -/
theorem completes_alike {s : State} (hw : s.cfg.wf = true) {i j : Instr} {ang : Nat}
    (hi : eval s.cfg i = sinOfAngle s.cfg ang) (hj : eval s.cfg j = sinOfAngle s.cfg ang) :
    ∃ t, exec i s = .next t ∧ exec j s = .next t ∧ t.phase = .done ∧ t.iters = 0#8 := by
  obtain ⟨v, hv, -⟩ := sinOfAngle_eq_some_i17 hw ang
  exact ⟨_, exec_of_eval (hi.trans hv), exec_of_eval (hj.trans hv), rfl, rfl⟩

/-- SIN of an angle is the blend at its point, negated in the second half turn (44_sincos.md R127). -/
theorem sinOfAngle_of_blend {c : Config} {ang : Nat} {mag : Int}
    (h : lerpTable c.interpDiv c.sinTable (sinPoint c (angleFields c ang)) = some mag) :
    sinOfAngle c ang = some ⟨(if (angleFields c ang).h = 1 then -1 else 1) * mag, 0⟩ := by
  simp only [sinOfAngle, h, ite_mul, neg_one_mul, one_mul]

/-- An answer of SIN reads two entries of the table and is their signed blend (44_sincos.md R127, R128). -/
theorem sinOfAngle_cases {c : Config} {ang : Nat} {v : Int} {k : Nat} (h : sinOfAngle c ang = some ⟨v, k⟩) :
    ∃ t0 t1 : Entry, c.sinTable[(sinPoint c (angleFields c ang)).idx]? = some t0 ∧
      c.sinTable[(sinPoint c (angleFields c ang)).idx + 1]? = some t1 ∧
      v = (if (angleFields c ang).h = 1 then -1 else 1) *
        lerp c.interpDiv t0.toNat t1.toNat (sinPoint c (angleFields c ang)).frac (2 ^ sinFracBits c) := by
  cases hmag : lerpTable c.interpDiv c.sinTable (sinPoint c (angleFields c ang)) with
  | none => simp [sinOfAngle, hmag] at h
  | some mag =>
    obtain ⟨t0, t1, ht0, ht1, rfl⟩ := lerpTable_cases hmag
    cases (sinOfAngle_of_blend hmag).symm.trans h
    exact ⟨t0, t1, ht0, ht1, rfl⟩

/-- Settles O28: the point of the fields is the one the statement writes out. -/
theorem sinResult : Obligations.SinResult := by
  rintro a s fb ang h q i f x fr hw rfl rfl rfl rfl rfl rfl rfl rfl
  obtain ⟨t, v, hx, hphase, hiters, hv, hval⟩ := completes_with_sinOfAngle hw (eval_sin s.cfg a)
  obtain ⟨t0, t1, ht0, ht1, hlerp⟩ := sinOfAngle_cases hv
  rw [angleFields_eq hw (Nat.mod_lt _ (Nat.two_pow_pos _))] at ht0 ht1 hlerp
  exact ⟨t, t0, t1, hx, hphase, hiters, ht0, ht1, hval.trans hlerp⟩

/-- Settles O34: both requests read the sine of one angle. -/
theorem cosResult : Obligations.CosResult := by
  intro a b s hw hb
  have hsin : eval s.cfg (.sin b) = sinOfAngle s.cfg ((a.toNat + 2 ^ (s.cfg.angleBits - 2)) % 2 ^ s.cfg.angleBits) := by
    rw [eval_sin, hb, Nat.mod_mod, Nat.mod_add_mod]
  obtain ⟨t, ht, hu, hphase, hiters⟩ := completes_alike hw (eval_cos s.cfg a) hsin
  exact ⟨t, t, ht, hu, hphase, hiters, rfl⟩

/-! ## Arithmetic of angles modulo a full turn -/

theorem two_pow_angleBits_dvd {c : Config} (hw : c.wf = true) : 2 ^ c.angleBits ∣ 2 ^ 32 := by
  obtain ⟨⟨-, hn⟩, -⟩ := c.wf_iff.1 hw
  exact Nat.pow_dvd_pow 2 hn

/-- 32-bit addition is addition of angles. -/
theorem toNat_add_mod_turn {c : Config} (hw : c.wf = true) (a : Word) (k : Nat) :
    (a + BitVec.ofNat 32 k).toNat % 2 ^ c.angleBits = (a.toNat + k) % 2 ^ c.angleBits := by
  rw [BitVec.toNat_add, BitVec.toNat_ofNat, Nat.add_mod_mod, Nat.mod_mod_of_dvd _ (two_pow_angleBits_dvd hw)]

/-- 32-bit negation is negation of angles. -/
theorem toNat_neg_mod_turn {c : Config} (hw : c.wf = true) (a : Word) :
    (-a).toNat % 2 ^ c.angleBits = (2 ^ c.angleBits - a.toNat % 2 ^ c.angleBits) % 2 ^ c.angleBits := by
  have hdvd := two_pow_angleBits_dvd hw
  have hlt := Nat.mod_lt a.toNat (Nat.two_pow_pos c.angleBits)
  have hcancel : 2 ^ 32 - a.toNat + a.toNat % 2 ^ c.angleBits ≡
      2 ^ c.angleBits - a.toNat % 2 ^ c.angleBits + a.toNat % 2 ^ c.angleBits [MOD 2 ^ c.angleBits] := by
    calc 2 ^ 32 - a.toNat + a.toNat % 2 ^ c.angleBits
        ≡ 2 ^ 32 - a.toNat + a.toNat [MOD 2 ^ c.angleBits] := (Nat.mod_modEq _ _).add_left _
      _ = 2 ^ 32 := Nat.sub_add_cancel a.isLt.le
      _ ≡ 0 [MOD 2 ^ c.angleBits] := Nat.modEq_zero_iff_dvd.2 hdvd
      _ ≡ 2 ^ c.angleBits [MOD 2 ^ c.angleBits] := (Nat.modEq_zero_iff_dvd.2 dvd_rfl).symm
      _ = 2 ^ c.angleBits - a.toNat % 2 ^ c.angleBits + a.toNat % 2 ^ c.angleBits :=
        (Nat.sub_add_cancel hlt.le).symm
  rw [BitVec.toNat_neg, Nat.mod_mod_of_dvd _ hdvd]
  exact hcancel.add_right_cancel' _

/-- Settles O31: only the angle is read, so equal angles complete in one state. -/
theorem sinPeriodic : Obligations.SinPeriodic := by
  intro a b s hw
  refine ⟨?_, fun hab => ⟨?_, ?_⟩⟩
  · have hturn := toNat_add_mod_turn hw a (2 ^ s.cfg.angleBits)
    rw [Nat.add_mod_right] at hturn
    obtain ⟨t, ht, hu, -⟩ := completes_alike hw (eval_sin s.cfg a) ((eval_sin s.cfg _).trans (by rw [hturn]))
    exact ⟨t, t, ht, hu, rfl, rfl⟩
  · obtain ⟨t, ht, hu, -⟩ := completes_alike hw (eval_sin s.cfg a) ((eval_sin s.cfg b).trans (by rw [hab]))
    exact ⟨t, t, ht, hu, rfl, rfl⟩
  · obtain ⟨t, ht, hu, -⟩ := completes_alike hw (eval_cos s.cfg a) ((eval_cos s.cfg b).trans
      (by rw [← Nat.mod_add_mod, ← hab, Nat.mod_add_mod]))
    exact ⟨t, t, ht, hu, rfl, rfl⟩

/-! ## The blend at a position of a rising table -/

/-- The rounded blend of the entries around position `pos` of a table with `fb` fraction bits; behind the last entry
the table goes on level. -/
def tableBlend (t : List Entry) (fb pos : Nat) : Nat :=
  let t0 := (t[pos / 2 ^ fb]?).getD 0#16
  let t1 := (t[pos / 2 ^ fb + 1]?).getD t0
  t0.toNat + ((t1.toNat - t0.toNat) * (pos % 2 ^ fb) + 2 ^ fb / 2) / 2 ^ fb

/-- On a whole position the blend is the entry itself. -/
theorem tableBlend_mul {t : List Entry} {k : Nat} {e : Entry} (h : t[k]? = some e) (fb : Nat) :
    tableBlend t fb (k * 2 ^ fb) = e.toNat := by
  have hpos := Nat.two_pow_pos fb
  have hround : 2 ^ fb / 2 / 2 ^ fb = 0 := Nat.div_eq_of_lt (by omega)
  simp [tableBlend, h, hround]

/-- The blend of a rising pair, in natural numbers. -/
theorem lerp_natCast (d : InterpDiv) {t0 t1 : Nat} (h : t0 ≤ t1) (f m : Nat) :
    lerp d t0 t1 f m = (t0 + ((t1 - t0) * f + m / 2) / m : Nat) := by
  rw [lerp_rising d (by exact_mod_cast h), Nat.shiftRight_eq_div_pow, pow_one, ← Nat.cast_sub h]
  push_cast
  rfl

/-- Entry `idx` and fraction `frac`, the full one included, blend as position `idx * 2^fb + frac` does. -/
theorem lerpTable_eq_tableBlend {t : List Entry} (hrise : t.Pairwise fun x y => x.toNat ≤ y.toNat) {idx frac fb : Nat}
    (hidx : idx + 1 < t.length) (hfrac : frac ≤ 2 ^ fb) (d : InterpDiv) :
    lerpTable d t ⟨idx, frac, 2 ^ fb⟩ = some (tableBlend t fb (idx * 2 ^ fb + frac) : Int) := by
  have hle : t[idx].toNat ≤ t[idx + 1].toNat := List.pairwise_iff_getElem.1 hrise _ _ _ hidx (Nat.lt_succ_self idx)
  rw [lerpTable_eq_some hidx d]
  rcases hfrac.lt_or_eq with hlt | rfl
  · have hdiv : (idx * 2 ^ fb + frac) / 2 ^ fb = idx := by
      rw [mul_comm, Nat.mul_add_div (Nat.two_pow_pos fb), Nat.div_eq_of_lt hlt, add_zero]
    have hmod : (idx * 2 ^ fb + frac) % 2 ^ fb = frac := by
      rw [mul_comm, Nat.mul_add_mod, Nat.mod_eq_of_lt hlt]
    rw [lerp_natCast d hle]
    simp [tableBlend, hdiv, hmod, hidx, Nat.lt_of_succ_lt hidx]
  · rw [lerp_full_of_le d (by exact_mod_cast hle), ← Nat.succ_mul, tableBlend_mul (List.getElem?_eq_getElem hidx)]

/-! ## The mirrored position -/

theorem mod_half_turn {half ang : Nat} (h : ang < half * 2) : ang % half = if half ≤ ang then ang - half else ang := by
  split
  · rw [Nat.mod_eq_sub_mod ‹_›, Nat.mod_eq_of_lt (by omega)]
  · exact Nat.mod_eq_of_lt (by omega)

/-- The mirrored position never leaves the quarter turn. -/
theorem mirroredPosition_le {c : Config} (hw : c.wf = true) (ang : Nat) :
    mirroredPosition c.angleBits ang ≤ 2 ^ (c.angleBits - 2) := by
  obtain ⟨-, hhalf, -⟩ := turn_powers_of_wf hw
  have hlt := Nat.mod_lt ang (Nat.two_pow_pos (c.angleBits - 1))
  unfold mirroredPosition
  split <;> omega

/-- Index and fraction that SIN reads with, direct or reflected, are the mirrored position (44_sincos.md R127). -/
theorem sinPoint_position {c : Config} (hw : c.wf = true) {ang : Nat} (ha : ang < 2 ^ c.angleBits) :
    (sinPoint c (angleFields c ang)).idx * 2 ^ sinFracBits c + (sinPoint c (angleFields c ang)).frac =
      mirroredPosition c.angleBits ang := by
  obtain ⟨hquarter, hhalf, -⟩ := turn_powers_of_wf hw
  have hin_half : ang % 2 ^ (c.angleBits - 1) =
      ang % 2 ^ (c.angleBits - 2) + 2 ^ (c.angleBits - 2) * (ang / 2 ^ (c.angleBits - 2) % 2) := by
    rw [hhalf, Nat.mod_mul]
  have hin_quarter : ang % 2 ^ (c.angleBits - 2) =
      ang % 2 ^ sinFracBits c + 2 ^ sinFracBits c * (ang / 2 ^ sinFracBits c % 2 ^ c.sinTableBits) := by
    rw [hquarter, mul_comm, Nat.mod_mul]
  have hp : ang % 2 ^ (c.angleBits - 2) < 2 ^ (c.angleBits - 2) := Nat.mod_lt _ (Nat.two_pow_pos _)
  have hf : ang % 2 ^ sinFracBits c < 2 ^ sinFracBits c := Nat.mod_lt _ (Nat.two_pow_pos _)
  have hi : ang / 2 ^ sinFracBits c % 2 ^ c.sinTableBits < 2 ^ c.sinTableBits := Nat.mod_lt _ (Nat.two_pow_pos _)
  rw [mirroredPosition, hin_half, angleFields_eq hw ha]
  simp only [sinPoint]
  rcases Nat.mod_two_eq_zero_or_one (ang / 2 ^ (c.angleBits - 2)) with hq | hq
  · rw [hq, if_pos rfl, if_pos rfl, mul_zero, add_zero, if_pos hp, hin_quarter]
    ring
  · rw [hq, if_neg one_ne_zero, if_neg one_ne_zero, mul_one, if_neg (by omega), hhalf, hin_quarter, hquarter]
    obtain ⟨r, hr⟩ := Nat.exists_eq_add_of_lt hi
    have hquarter_split : 2 ^ c.sinTableBits * 2 ^ sinFracBits c = r * 2 ^ sinFracBits c + 2 ^ sinFracBits c +
        2 ^ sinFracBits c * (ang / 2 ^ sinFracBits c % 2 ^ c.sinTableBits) := by
      conv_lhs => rw [hr]
      ring
    have hreflected : 2 ^ c.sinTableBits - 1 - ang / 2 ^ sinFracBits c % 2 ^ c.sinTableBits = r := by omega
    rw [hreflected]
    omega

/-! ## SIN at the mirrored position -/

/-- The sine of an angle below a full turn, by its position in the quarter turn and its half turn. -/
def foldedSine (c : Config) (ang : Nat) : Int :=
  (if 2 ^ (c.angleBits - 1) ≤ ang then -1 else 1) *
    tableBlend c.sinTable (sinFracBits c) (mirroredPosition c.angleBits ang)

/-- SIN of a rising table is the signed blend at the mirrored position, under either division. -/
theorem sinOfAngle_eq_foldedSine {c : Config} (hw : c.wf = true) (hr : c.sinTableRises) {ang : Nat}
    (ha : ang < 2 ^ c.angleBits) : sinOfAngle c ang = some ⟨foldedSine c ang, 0⟩ := by
  obtain ⟨hidx, hfrac⟩ := sinPoint_inside c ang
  have hblend := lerpTable_eq_tableBlend hr (idx := (sinPoint c (angleFields c ang)).idx)
    (by rw [Config.sinTable_length_of_wf hw]; omega) hfrac c.interpDiv
  rw [sinPoint_position hw ha] at hblend
  rw [sinOfAngle_of_blend hblend, foldedSine, if_congr (angleFields_h_eq_one_iff hw ha) rfl rfl]

/-- SIN completes with the signed blend at the mirrored position of its angle. -/
theorem sin_completes_with_foldedSine {s : State} (hw : s.cfg.wf = true) (hr : s.cfg.sinTableRises) (a : Word) :
    ∃ t, exec (.sin a) s = .next t ∧ t.value.toInt = foldedSine s.cfg (a.toNat % 2 ^ s.cfg.angleBits) := by
  obtain ⟨t, v, hx, -, -, hv, hval⟩ := completes_with_sinOfAngle hw (eval_sin s.cfg a)
  rw [sinOfAngle_eq_foldedSine hw hr (Nat.mod_lt _ (Nat.two_pow_pos _))] at hv
  cases hv
  exact ⟨t, hx, hval⟩

/-- Settles O29: the mirrored position lies in the quarter turn, so its entry is in the table. -/
theorem sinIsMirroredInterpolation : Obligations.SinIsMirroredInterpolation := by
  rintro a s fb ang pos hw hr rfl rfl rfl
  obtain ⟨t, hx, hval⟩ := sin_completes_with_foldedSine hw hr a
  obtain ⟨hquarter, -⟩ := turn_powers_of_wf hw
  have hpos := hquarter ▸ mirroredPosition_le hw (a.toNat % 2 ^ s.cfg.angleBits)
  have hin : mirroredPosition s.cfg.angleBits (a.toNat % 2 ^ s.cfg.angleBits) / 2 ^ sinFracBits s.cfg <
      s.cfg.sinTable.length := by
    rw [Config.sinTable_length_of_wf hw, Nat.lt_succ_iff]
    exact Nat.div_le_of_le_mul (mul_comm _ (2 ^ sinFracBits s.cfg) ▸ hpos)
  refine ⟨t, _, hx, List.getElem?_eq_getElem hin, ?_⟩
  rintro t1 rfl
  rw [hval, foldedSine, tableBlend, List.getElem?_eq_getElem hin]
  rfl

/-! ## The quadrant points -/

theorem sinTable_first {c : Config} (hw : c.wf = true) : c.sinTable[0]? = some 0#16 := by
  obtain ⟨-, -, -, -, -, ⟨-, h0, -⟩, -⟩ := c.wf_iff.1 hw
  exact h0

theorem sinTable_last {c : Config} (hw : c.wf = true) : c.sinTable[2 ^ c.sinTableBits]? = some 4096#16 := by
  obtain ⟨-, -, -, -, -, ⟨-, -, h1⟩, -⟩ := c.wf_iff.1 hw
  exact h1

theorem tableBlend_start {c : Config} (hw : c.wf = true) : tableBlend c.sinTable (sinFracBits c) 0 = 0 := by
  simpa using tableBlend_mul (sinTable_first hw) (sinFracBits c)

theorem tableBlend_quarter_turn {c : Config} (hw : c.wf = true) :
    tableBlend c.sinTable (sinFracBits c) (2 ^ (c.angleBits - 2)) = 4096 := by
  obtain ⟨hquarter, -⟩ := turn_powers_of_wf hw
  rw [hquarter, tableBlend_mul (sinTable_last hw)]
  rfl

/-- The sine at the four quadrant points (44_sincos.md R131). -/
theorem foldedSine_quadrant_points {c : Config} (hw : c.wf = true) :
    foldedSine c 0 = 0 ∧ foldedSine c (2 ^ (c.angleBits - 2)) = 4096 ∧ foldedSine c (2 ^ (c.angleBits - 1)) = 0 ∧
    foldedSine c (3 * 2 ^ (c.angleBits - 2)) = -4096 := by
  obtain ⟨-, hhalf, -⟩ := turn_powers_of_wf hw
  have hpos := Nat.two_pow_pos (c.angleBits - 2)
  have hthree : 3 * 2 ^ (c.angleBits - 2) % 2 ^ (c.angleBits - 1) = 2 ^ (c.angleBits - 2) := by
    rw [mod_half_turn (by omega), if_pos (by omega)]
    omega
  have hone : 2 ^ (c.angleBits - 2) % 2 ^ (c.angleBits - 1) = 2 ^ (c.angleBits - 2) := Nat.mod_eq_of_lt (by omega)
  have hmirror : 2 ^ (c.angleBits - 1) - 2 ^ (c.angleBits - 2) = 2 ^ (c.angleBits - 2) := by omega
  have hsecond : ¬2 ^ (c.angleBits - 1) ≤ 2 ^ (c.angleBits - 2) := by omega
  have hfourth : 2 ^ (c.angleBits - 1) ≤ 3 * 2 ^ (c.angleBits - 2) := by omega
  refine ⟨?_, ?_, ?_, ?_⟩
  · simp [foldedSine, mirroredPosition, tableBlend_start hw]
  · simp [foldedSine, mirroredPosition, hone, hmirror, hsecond, tableBlend_quarter_turn hw]
  · simp [foldedSine, mirroredPosition, tableBlend_start hw]
  · simp [foldedSine, mirroredPosition, hthree, hmirror, hfourth, tableBlend_quarter_turn hw]

/-- SIN of an operand below a full turn. -/
theorem sin_ofNat_completes {s : State} (hw : s.cfg.wf = true) (hr : s.cfg.sinTableRises) {k : Nat}
    (hk : k < 2 ^ s.cfg.angleBits) :
    ∃ t, exec (.sin (BitVec.ofNat 32 k)) s = .next t ∧ t.value.toInt = foldedSine s.cfg k := by
  obtain ⟨t, hx, hval⟩ := sin_completes_with_foldedSine hw hr (BitVec.ofNat 32 k)
  rw [BitVec.toNat_ofNat, Nat.mod_mod_of_dvd _ (two_pow_angleBits_dvd hw), Nat.mod_eq_of_lt hk] at hval
  exact ⟨t, hx, hval⟩

/-- Settles O30: each operand is the angle of one quadrant point. -/
theorem sinQuadrantPoints : Obligations.SinQuadrantPoints := by
  rintro s n hw hr rfl
  obtain ⟨hzero, hquarter, hhalf, hthree⟩ := foldedSine_quadrant_points hw
  obtain ⟨-, hhalf_eq, hfull⟩ := turn_powers_of_wf hw
  have hpos := Nat.two_pow_pos (s.cfg.angleBits - 2)
  refine ⟨?_, ?_, ?_, ?_⟩
  · exact hzero ▸ sin_ofNat_completes hw hr (k := 0) (by omega)
  · exact hquarter ▸ sin_ofNat_completes hw hr (by omega)
  · exact hhalf ▸ sin_ofNat_completes hw hr (by omega)
  · exact hthree ▸ sin_ofNat_completes hw hr (by omega)

/-! ## Odd symmetry -/

/-- A negated angle has the same mirrored position: what one counts from the start the other counts from the end. -/
theorem mirroredPosition_neg {c : Config} (hw : c.wf = true) {ang : Nat} (h0 : 0 < ang) (ha : ang < 2 ^ c.angleBits) :
    mirroredPosition c.angleBits (2 ^ c.angleBits - ang) = mirroredPosition c.angleBits ang := by
  obtain ⟨-, hhalf, hfull⟩ := turn_powers_of_wf hw
  have hmod := mod_half_turn (hfull ▸ ha)
  have hmod_neg := mod_half_turn (half := 2 ^ (c.angleBits - 1)) (ang := 2 ^ c.angleBits - ang) (by omega)
  rw [mirroredPosition, mirroredPosition, hmod, hmod_neg]
  split_ifs <;> omega

/-- The sine is odd (44_sincos.md R132); at its own negatives, 0 and the half turn, it is 0. -/
theorem foldedSine_neg {c : Config} (hw : c.wf = true) {ang : Nat} (ha : ang < 2 ^ c.angleBits) :
    foldedSine c ((2 ^ c.angleBits - ang) % 2 ^ c.angleBits) = -foldedSine c ang := by
  obtain ⟨hzero, -, hhalf_zero, -⟩ := foldedSine_quadrant_points hw
  obtain ⟨-, hhalf, hfull⟩ := turn_powers_of_wf hw
  rcases Nat.eq_zero_or_pos ang with rfl | h0
  · rw [Nat.sub_zero, Nat.mod_self, hzero, neg_zero]
  rw [Nat.mod_eq_of_lt (by omega)]
  rcases lt_trichotomy ang (2 ^ (c.angleBits - 1)) with hlt | heq | hgt
  · rw [foldedSine, foldedSine, mirroredPosition_neg hw h0 ha, if_pos (by omega), if_neg (by omega)]
    ring
  · have hself : 2 ^ c.angleBits - ang = ang := by omega
    rw [hself, heq, hhalf_zero, neg_zero]
  · rw [foldedSine, foldedSine, mirroredPosition_neg hw h0 ha, if_neg (by omega), if_pos (by omega)]
    ring

/-- Settles O32: the negated operand is the negated angle, and COS reads the angle a quarter turn ahead. -/
theorem sinOddSymmetry : Obligations.SinOddSymmetry := by
  intro a s hw hr
  refine ⟨?_, ?_⟩
  · obtain ⟨t, hx, hval⟩ := sin_completes_with_foldedSine hw hr a
    obtain ⟨u, hu, hneg⟩ := sin_completes_with_foldedSine hw hr (-a)
    rw [toNat_neg_mod_turn hw, foldedSine_neg hw (Nat.mod_lt _ (Nat.two_pow_pos _)), ← hval] at hneg
    exact ⟨t, u, hx, hu, hneg⟩
  · obtain ⟨t, ht, hu, -⟩ := completes_alike hw (eval_cos s.cfg a)
      ((eval_sin s.cfg _).trans (by rw [toNat_add_mod_turn hw]))
    exact ⟨t, t, ht, hu, rfl⟩

/-! ## The range -/

/-- A rising table from 0 to 4096 has every entry between (44_sincos.md R133). -/
theorem sinTable_entry_le {c : Config} (hw : c.wf = true) (hr : c.sinTableRises) {k : Nat} {e : Entry}
    (h : c.sinTable[k]? = some e) : e.toNat ≤ 4096 := by
  obtain ⟨hk, rfl⟩ := List.getElem?_eq_some_iff.1 h
  obtain ⟨hlast, hlast_eq⟩ := List.getElem?_eq_some_iff.1 (sinTable_last hw)
  have hlen := Config.sinTable_length_of_wf hw
  have htop : (c.sinTable[2 ^ c.sinTableBits]).toNat = 4096 := by rw [hlast_eq]; rfl
  rcases (show k ≤ 2 ^ c.sinTableBits by omega).lt_or_eq with hlt | rfl
  · exact htop ▸ List.pairwise_iff_getElem.1 hr _ _ hk hlast hlt
  · exact htop.le

/-- A blend lies between its entries, so a signed one lies between minus the last entry and the last entry. -/
theorem sinOfAngle_mem_range {c : Config} (hw : c.wf = true) (hr : c.sinTableRises) {ang k : Nat} {v : Int}
    (h : sinOfAngle c ang = some ⟨v, k⟩) : -4096 ≤ v ∧ v ≤ 4096 := by
  obtain ⟨t0, t1, ht0, ht1, hv⟩ := sinOfAngle_cases h
  obtain ⟨-, hfrac⟩ := sinPoint_inside c ang
  have hbetween := lerp_between c.interpDiv t0.toNat t1.toNat hfrac
  have h0 := sinTable_entry_le hw hr ht0
  have h1 := sinTable_entry_le hw hr ht1
  split at hv <;> omega

/-- A request that reads the sine of an angle completes inside the range. -/
theorem completes_in_sine_range {s : State} (hw : s.cfg.wf = true) (hr : s.cfg.sinTableRises) {i : Instr} {ang : Nat}
    (h : eval s.cfg i = sinOfAngle s.cfg ang) :
    ∃ t, exec i s = .next t ∧ -4096 ≤ t.value.toInt ∧ t.value.toInt ≤ 4096 := by
  obtain ⟨t, v, hx, -, -, hv, rfl⟩ := completes_with_sinOfAngle hw h
  exact ⟨t, hx, sinOfAngle_mem_range hw hr hv⟩

/-- Settles O33: SIN and COS both answer the sine of some angle. -/
theorem sinCosRange : Obligations.SinCosRange := fun a s hw hr =>
  ⟨completes_in_sine_range hw hr (eval_sin s.cfg a), completes_in_sine_range hw hr (eval_cos s.cfg a)⟩

end Sys2Proof.Machine
end

section
/-! PROOFS. The closed list of stops: what the host's turn, the block's turn and a step refuse or fault on, the hold
before a refusal, and the inputs that are answered by a sentinel instead (60_exceptions.md R141, R142, R146). -/

namespace Sys2Proof.Machine

/-! ## RSQRTTBL outside its domain, in a word and in flight -/

theorem inRsqrtDomain_eq_false_iff (a : Word) : inRsqrtDomain a = false ↔ a.toNat < 2 ^ 22 ∨ 2 ^ 24 ≤ a.toNat := by
  rw [← Bool.not_eq_true, inRsqrtDomain_iff]
  omega

theorem decode_eq_rsqrttbl_iff {r : Request} {a : Word} :
    decode r = .ok (.rsqrttbl a) ↔ requestOp r = 0x4#4 ∧ requestOperand r = a :=
  decodeFields_eq_ok_iff.trans (and_congr eq_comm eq_comm)

theorem requestInFlight_eq_rsqrttbl_iff {s : State} {a : Word} :
    requestInFlight s = .ok (.rsqrttbl a) ↔ s.op = 0x4#4 ∧ s.a = a := by
  rw [requestInFlight_eq_ok_iff, decode_eq_rsqrttbl_iff, requestOp_requestOf, requestOperand_requestOf]

/-! ## The stops of the host's turn -/

/-- The two refusals of an Issue outside BUSY: of a reserved op code, and, in a build that refuses at Issue, of RSQRTTBL
outside its domain under `refuse` (30_encoding.md R64, 60_exceptions.md R147; log 22). -/
def RefusedAtIssue (c : Config) (r : Request) (f : Refusal) : Prop :=
  (7 ≤ (requestOp r).toNat ∧ f = .reservedOp (requestOp r)) ∨
  (requestOp r = 0x4#4 ∧ c.rsqrtOod = .refuse ∧ c.oodRefusedAt = .issue ∧
    ((requestOperand r).toNat < 2 ^ 22 ∨ 2 ^ 24 ≤ (requestOperand r).toNat) ∧
    f = .rsqrtTableOutOfDomain (requestOperand r))

theorem RefusedAtIssue.of_reserved (c : Config) {r : Request} (h : 7 ≤ (requestOp r).toNat) :
    RefusedAtIssue c r (.reservedOp (requestOp r)) :=
  .inl ⟨h, rfl⟩

theorem RefusedAtIssue.of_rsqrttbl {c : Config} {r : Request} {a : Word} (hd : decode r = .ok (.rsqrttbl a))
    (ha : inRsqrtDomain a = false) (ho : c.rsqrtOod = .refuse) (hi : c.oodRefusedAt = .issue) :
    RefusedAtIssue c r (.rsqrtTableOutOfDomain a) := by
  obtain ⟨hop, rfl⟩ := decode_eq_rsqrttbl_iff.1 hd
  exact .inr ⟨hop, ho, hi, (inRsqrtDomain_eq_false_iff _).1 ha, rfl⟩

theorem hostTurn_issue_of_refused {s : State} {r : Request} {rest : List HostAction} {f : Refusal}
    (hp : s.pending = .issue r :: rest) (hb : s.phase ≠ .busy) (h : RefusedAtIssue s.cfg r f) :
    hostTurn s = .refused f := by
  obtain ⟨h7, rfl⟩ | ⟨hop, ho, hi, ha, rfl⟩ := h
  · simp [hostTurn, hp, hostIssue, hb, decode_reserved h7, refusalOf]
  · have hd : decode r = .ok (.rsqrttbl (requestOperand r)) := decode_eq_rsqrttbl_iff.2 ⟨hop, rfl⟩
    simp [hostTurn, hp, hostIssue, hb, hd, refusalAtIssue, (inRsqrtDomain_eq_false_iff _).2 ha, ho, hi]

theorem hostTurn_eq_fault_iff {s : State} {f : Fault} : hostTurn s = .fault f ↔
    f = .readBeforeResponse ∧ s.phase = .idle ∧ ∃ rest, s.pending = .read :: rest := by
  constructor
  · intro h
    obtain ⟨-, e⟩ | ⟨r, rest, -, -, e⟩ | ⟨r, rest, i, -, -, -, -, e⟩ | ⟨r, rest, a, -, -, -, -, -, -, e⟩ |
      ⟨r, rest, -, -, -, e⟩ | ⟨rest, -, -, e⟩ | ⟨rest, -, -, e⟩ | ⟨rest, hp, hb, e⟩ | ⟨rest, -, e⟩ :=
        hostTurn_cases s <;> rw [e] at h <;> cases h
    exact ⟨rfl, hb, rest, hp⟩
  · rintro ⟨rfl, hb, rest, hp⟩
    exact hostTurn_read_of_idle hp hb

theorem hostTurn_eq_refused_iff {s : State} {f : Refusal} : hostTurn s = .refused f ↔
    s.phase ≠ .busy ∧ ∃ r rest, s.pending = .issue r :: rest ∧ RefusedAtIssue s.cfg r f := by
  constructor
  · intro h
    obtain ⟨-, e⟩ | ⟨r, rest, -, -, e⟩ | ⟨r, rest, i, -, -, -, -, e⟩ | ⟨r, rest, a, hp, hb, hd, ha, ho, hi, e⟩ |
      ⟨r, rest, hp, hb, h7, e⟩ | ⟨rest, -, -, e⟩ | ⟨rest, -, -, e⟩ | ⟨rest, -, -, e⟩ | ⟨rest, -, e⟩ :=
        hostTurn_cases s <;> rw [e] at h <;> cases h
    · exact ⟨hb, r, rest, hp, .of_rsqrttbl hd ha ho hi⟩
    · exact ⟨hb, r, rest, hp, .of_reserved s.cfg h7⟩
  · rintro ⟨hb, r, rest, hp, hr⟩
    exact hostTurn_issue_of_refused hp hb hr

/-! ## The stops of the block's turn -/

theorem blockTurn_ne_fault (s : State) (f : Fault) : blockTurn s ≠ .fault f := by
  obtain ⟨-, e⟩ | ⟨i, -, -, e⟩ | ⟨-, -, e⟩ := blockTurn_cases s <;> rw [e]
  · nofun
  · exact exec_ne_fault i s f
  · nofun

/-- Under a well-formed configuration Complete refuses RSQRTTBL outside its domain under `refuse`, and nothing else
(43_rsqrt_table.md R119). -/
theorem exec_eq_refused_iff {s : State} (hw : s.cfg.wf = true) {i : Instr} {f : Refusal} :
    exec i s = .refused f ↔ ∃ a, i = .rsqrttbl a ∧ inRsqrtDomain a = false ∧ s.cfg.rsqrtOod = .refuse ∧
      f = .rsqrtTableOutOfDomain a := by
  constructor
  · intro h
    obtain ⟨r, -, e⟩ | ⟨a, -, -, -, e⟩ | ⟨a, hi, ha, ho, e⟩ | ⟨he, -, hd⟩ := exec_cases i s
    · rw [e] at h; cases h
    · rw [e] at h; cases h
    · rw [e] at h; cases h
      exact ⟨a, hi, ha, ho, rfl⟩
    · obtain ⟨r, hr, -⟩ := eval_eq_some_fits hw i hd
      simp [he] at hr
  · rintro ⟨a, rfl, ha, ho, rfl⟩
    exact exec_rsqrttbl_of_refuse ha ho

/-- A request that Issue takes and `refuse` refuses is one of a build that refuses at Complete (log 22). -/
theorem refusedAtComplete_of_taken {c : Config} {a : Word} (ht : requestTaken c (.rsqrttbl a) = true)
    (ha : inRsqrtDomain a = false) (ho : c.rsqrtOod = .refuse) : c.oodRefusedAt = .complete := by
  simpa [requestTaken, requestResponds, ha, ho] using ht

/-- The one refusal of Complete: RSQRTTBL outside its domain in flight, under `refuse`, in a build that refuses there
(10_state.md R29, 43_rsqrt_table.md R119; log 22). -/
theorem blockTurn_eq_refused_iff {s : State} (hinv : s.Inv) (hw : s.cfg.wf = true) {f : Refusal} :
    blockTurn s = .refused f ↔ s.phase = .busy ∧ s.op = 0x4#4 ∧ s.cfg.rsqrtOod = .refuse ∧
      s.cfg.oodRefusedAt = .complete ∧ (s.a.toNat < 2 ^ 22 ∨ 2 ^ 24 ≤ s.a.toNat) ∧
      f = .rsqrtTableOutOfDomain s.a := by
  by_cases hb : s.phase = .busy
  · obtain ⟨i, hi, ht⟩ := hinv.busy_taken hb
    rw [blockTurn_of_busy hb ((requestInFlight_eq_ok_iff s i).1 hi), exec_eq_refused_iff hw]
    constructor
    · rintro ⟨a, rfl, ha, ho, rfl⟩
      obtain ⟨hop, rfl⟩ := requestInFlight_eq_rsqrttbl_iff.1 hi
      exact ⟨hb, hop, ho, refusedAtComplete_of_taken ht ha ho, (inRsqrtDomain_eq_false_iff _).1 ha, rfl⟩
    · rintro ⟨-, hop, ho, -, ha, rfl⟩
      have hi' : requestInFlight s = .ok (.rsqrttbl s.a) := requestInFlight_eq_rsqrttbl_iff.2 ⟨hop, rfl⟩
      rw [hi] at hi'
      exact ⟨s.a, Except.ok.inj hi', (inRsqrtDomain_eq_false_iff _).2 ha, ho, rfl⟩
  · simp [blockTurn, hb]

/-! ## The stops of a step -/

theorem step_of_not_wf {s : State} (hw : s.cfg.wf = false) : step s = .refused .illFormedConfig := by
  simp [step, hw]

theorem step_eq_fault_iff {s : State} {f : Fault} : step s = .fault f ↔
    s.cfg.wf = true ∧ (nextTurn s).1 = .host ∧ hostTurn s.takeTurn = .fault f := by
  cases hw : s.cfg.wf with
  | false => simp [step_of_not_wf hw]
  | true =>
    obtain ⟨hn, e⟩ | ⟨hn, e⟩ | ⟨hn, e⟩ := step_turn hw
    · simp [hn, e]
    · simp [hn, e, blockTurn_ne_fault]
    · simp [hn, e]

theorem step_eq_refused_iff {s : State} {f : Refusal} : step s = .refused f ↔
    (f = .illFormedConfig ∧ s.cfg.wf = false) ∨
    (s.cfg.wf = true ∧ (nextTurn s).1 = .host ∧ hostTurn s.takeTurn = .refused f) ∨
    (s.cfg.wf = true ∧ (nextTurn s).1 = .block ∧ blockTurn s.takeTurn = .refused f) := by
  cases hw : s.cfg.wf with
  | false => simp [step_of_not_wf hw, eq_comm]
  | true => obtain ⟨hn, e⟩ | ⟨hn, e⟩ | ⟨hn, e⟩ := step_turn hw <;> simp [hn, e]

/-- Settles O55: a step stops where the configuration is ill formed or the turn of the agent that moves stops, and each
agent's turn stops exactly there. -/
theorem onlyTheseStops : Obligations.OnlyTheseStops := by
  intro s hinv
  refine ⟨fun f => ?_, fun f => ?_⟩
  · rw [step_eq_fault_iff, hostTurn_eq_fault_iff]
    constructor
    · rintro ⟨hw, hn, hf, hread⟩
      exact ⟨hf, hw, hn, hread⟩
    · rintro ⟨hf, hw, hn, hread⟩
      exact ⟨hw, hn, hf, hread⟩
  · rw [step_eq_refused_iff, hostTurn_eq_refused_iff]
    refine or_congr Iff.rfl (or_congr Iff.rfl (and_congr_right fun hw => and_congr_right fun _ => ?_))
    exact blockTurn_eq_refused_iff hinv.takeTurn hw

/-! ## The hold before the refusal -/

/-- Settles O47: the turns host, block, host are a hold, a Complete that lifts it, and the refusal. -/
theorem reservedIssueHoldsFirst : Obligations.ReservedIssueHoldsFirst := by
  intro s ts r rest i hw hb hp hd hr hts
  have ht : step s = .next (s.takeTurn.hold .issueWhileBusy) :=
    (step_eq_hostTurn (nextTurn_fst_of_cons hts) hw).trans (hostTurn_issue_of_busy hp hb)
  have hblock : (s.takeTurn.hold .issueWhileBusy).turns = .block :: .host :: ts := by simp [hts]
  obtain ⟨x, hu, -⟩ := step_completes (nextTurn_fst_of_cons hblock) hw hb hd hr
  have hhost : ((s.takeTurn.hold .issueWhileBusy).takeTurn.complete x).turns = .host :: ts := by simp [hts]
  have refuses {f : Refusal} (h : RefusedAtIssue s.cfg r f) :
      step ((s.takeTurn.hold .issueWhileBusy).takeTurn.complete x) = .refused f :=
    (step_eq_hostTurn (nextTurn_fst_of_cons hhost) hw).trans (hostTurn_issue_of_refused hp (by simp) h)
  refine ⟨_, _, ht, rfl, hu, rfl, rfl, fun h7 => refuses (.of_reserved _ h7), fun a hda ha ho hi => ?_⟩
  exact refuses (.of_rsqrttbl hda ((inRsqrtDomain_eq_false_iff a).2 ha) ho hi)

/-! ## The inputs answered by a sentinel -/

/-- Settles O35: each answer at 0 is its sentinel, whatever the configuration. -/
theorem specialInputsAnswerSentinels : Obligations.SpecialInputsAnswerSentinels := by
  intro s
  have hfloor : eval s.cfg (.log2floor 0#32) = some ⟨-1, 0⟩ := congrArg some log2FloorAnswer_zero
  have hceil : eval s.cfg (.log2ceil 0#32) = some ⟨-1, 0⟩ := congrArg some log2CeilAnswer_zero
  have hsqrt : eval s.cfg (.sqrt 0#32) = some ⟨0, 0⟩ := rfl
  have hrsqrt : eval s.cfg (.rsqrt 0#32) = some rsqrtZeroAnswer := rfl
  exact ⟨_, _, _, _, exec_of_eval hfloor, rfl, rfl, rfl, exec_of_eval hceil, rfl, rfl, rfl,
    exec_of_eval hsqrt, rfl, rfl, exec_of_eval hrsqrt, rfl, rfl⟩

end Sys2Proof.Machine
end

section
/-! PROOFS. Reset, determinism, the work of each request, and the configuration that no step changes
(70_reset_and_hazards.md R160, R166, R170, R172). -/

namespace Sys2Proof.Machine

/-! ## The same request gives the same response -/

/-- But for RSQRTTBL outside its domain, Complete stores the answer that configuration and request determine. -/
theorem eval_of_exec_next {i : Instr} {s t : State} (h : exec i s = .next t)
    (hd : ∀ a, i = .rsqrttbl a → inRsqrtDomain a = true) : ∃ r, eval s.cfg i = some r ∧ t = s.complete r := by
  obtain ⟨r, ht, he | ⟨a, hi, ha, -⟩⟩ := exec_next h
  · exact ⟨r, he, ht⟩
  · simp [hd a hi] at ha

/-- Settles O38: both states store the one answer of the request, which is read from the configuration alone. -/
theorem sameRequestSameResponse : Obligations.SameRequestSameResponse := by
  intro i s s' t t' hcfg ht ht' hdom
  have hd (a : Word) (hi : i = .rsqrttbl a) : inRsqrtDomain a = true := (inRsqrtDomain_iff a).2 (hdom a hi)
  obtain ⟨r, he, rfl⟩ := eval_of_exec_next ht hd
  obtain ⟨r', he', rfl⟩ := eval_of_exec_next ht' hd
  obtain rfl : r = r' := Option.some.inj (he.symm.trans (hcfg ▸ he'))
  exact ⟨rfl, rfl⟩

/-! ## How many steps each request takes -/

theorem sinOfAngle_iters {c : Config} {ang : Nat} {r : Answer} (h : sinOfAngle c ang = some r) : r.iters = 0 := by
  unfold sinOfAngle at h
  split at h
  · cases h
    rfl
  · cases h

/-- Only SQRT and RSQRT bisect. -/
theorem iters_eq_zero_of_eval {c : Config} {i : Instr} {r : Answer} (hsqrt : ∀ a, i ≠ .sqrt a)
    (hrsqrt : ∀ a, i ≠ .rsqrt a) (h : eval c i = some r) : r.iters = 0 := by
  cases i with
  | log2floor a =>
    cases h
    rfl
  | log2ceil a =>
    cases h
    exact log2CeilAnswer_iters a
  | sqrt a => exact absurd rfl (hsqrt a)
  | rsqrt a => exact absurd rfl (hrsqrt a)
  | rsqrttbl a =>
    obtain ⟨-, h⟩ := Option.ite_none_right_eq_some.1 h
    obtain ⟨-, -, -, hiters⟩ := rsqrtTblAnswer_cases h
    exact hiters
  | sin a => exact sinOfAngle_iters h
  | cos a => exact sinOfAngle_iters h

/-- A request that does not bisect leaves ITERS 0, whether its response is determined or drawn. -/
theorem iters_eq_zero_of_exec {i : Instr} {s t : State} (hsqrt : ∀ a, i ≠ .sqrt a) (hrsqrt : ∀ a, i ≠ .rsqrt a)
    (h : exec i s = .next t) : t.iters = 0#8 := by
  obtain ⟨r, rfl, he | ⟨a, -, -, rfl⟩⟩ := exec_next h
  · rw [State.complete_iters, iters_eq_zero_of_eval hsqrt hrsqrt he]
  · rfl

/-- The tolerance shift bounds the steps as the cap does: after `tb` halvings the width is within TOL (R94). -/
theorem bisectSteps_le (tb maxIter j : Nat) : bisectSteps tb maxIter j ≤ min maxIter tb := by
  unfold bisectSteps
  split_ifs <;> omega

theorem sqrtAnswer_iters_le (c : Config) (a : Word) :
    (sqrtAnswer c a).iters ≤ min c.sqrtMaxIterations c.sqrtToleranceBits := by
  unfold sqrtAnswer
  split
  · exact Nat.zero_le _
  next ha =>
    obtain ⟨hsteps, -⟩ := sqrtWork_steps_width ha c rfl rfl
    exact hsteps.trans_le (bisectSteps_le ..)

theorem rsqrtAnswer_iters_le (c : Config) (a : Word) :
    (rsqrtAnswer c a).iters ≤ min c.rsqrtMaxIterations c.rsqrtToleranceBits := by
  unfold rsqrtAnswer
  split
  · exact Nat.zero_le _
  next ha =>
    obtain ⟨hsteps, -⟩ := rsqrtWork_steps_width ha c rfl rfl
    exact hsteps.trans_le (bisectSteps_le ..)

/-- A step count within a cap that ITERS can hold is stored as it is (00_scope.md R8, 10_state.md R31). -/
theorem completes_within {i : Instr} {s : State} {r : Answer} {cap tb : Nat} (he : eval s.cfg i = some r)
    (hcap : cap ≤ 255) (hr : r.iters ≤ min cap tb) : ∃ t, exec i s = .next t ∧ t.iters.toNat ≤ min cap tb ∧
      (cap = 10 → tb = 6 → t.iters.toNat ≤ 6) := by
  refine ⟨_, exec_of_eval he, ?_⟩
  rw [State.complete_iters, BitVec.toNat_ofNat, Nat.mod_eq_of_lt (by omega)]
  exact ⟨hr, by omega⟩

/-- Settles O39: five operations have no bisection in their answer, and the step count of the other two is that of
Bisect for the octave of their seed. -/
theorem stepsPerRequest : Obligations.StepsPerRequest := by
  intro a s hw
  obtain ⟨hsqrtCap, hrsqrtCap⟩ := Config.iterations_le_of_wf hw
  refine ⟨fun i hi hr => ?_, completes_within rfl hsqrtCap (sqrtAnswer_iters_le s.cfg a),
    completes_within rfl hrsqrtCap (rsqrtAnswer_iters_le s.cfg a)⟩
  obtain ⟨r, hx⟩ := exec_of_responds hw hr
  refine ⟨_, hx, iters_eq_zero_of_exec ?_ ?_ hx⟩
  · rintro b rfl
    simp at hi
  · rintro b rfl
    simp at hi

/-! ## The configuration and the reset state -/

/-- Settles O42: no turn of any agent writes the configuration. -/
theorem configurationIsFixed : Obligations.ConfigurationIsFixed :=
  fun _ _ h => cfg_of_step_next h

/-- The reset state is what reset leaves of it (70_reset_and_hazards.md R160). -/
theorem resetBlock_reset : State.reset.resetBlock = State.reset := rfl

/-- Settles O52: what reset leaves meets the invariant, and the build is well formed, so the Read is the host's turn
in IDLE. -/
theorem resetStateIsIdle : Obligations.ResetStateIsIdle := by
  refine ⟨rfl, resetBlock_reset ▸ resetBlock_inv State.reset, ?_⟩
  exact (step_eq_hostTurn rfl Config.build_wf).trans (hostTurn_read_of_idle rfl rfl)

end Sys2Proof.Machine
end

section
/-! PROOFS. The encoding in both directions and as numbers, the response word and LOG2_TABLE, which configurations are
well formed, and an Issue outside BUSY, a reset and a refusal with all that each leaves (00_scope.md R8, 10_state.md R27,
20_memory.md R41, 30_encoding.md R60 to R64, 60_exceptions.md R147, 70_reset_and_hazards.md R160 to R162). -/

namespace Sys2Proof

/-! ## Request and response words -/

/-- Settles O2: a word decodes to the one instruction it encodes, and its op code alone says whether there is one. -/
theorem decodeEncodeAgree : Obligations.DecodeEncodeAgree :=
  ⟨decode_encode, fun _ _ => decode_eq_ok_iff.1, fun _ => decodeFields_isOk_iff _ _, fun _ => Machine.decode_reserved⟩

/-- A request word read back from its number is itself (30_encoding.md R60). -/
theorem decodeNumber_toNat (r : Request) : decodeNumber r.toNat = decode r := by
  rw [decodeNumber, if_pos r.isLt, BitVec.ofNat_toNat, BitVec.setWidth_eq]

theorem decodeNumber_of_le {w : Nat} (h : 2 ^ 36 ≤ w) : decodeNumber w = .error (.notARequest w) :=
  if_neg h.not_gt

/-- Settles O4: the number of an encoding is that of a request word, and a number of `2^36` or more is of none. -/
theorem tableWordDecodes : Obligations.TableWordDecodes := by
  refine ⟨fun n i => ?_, fun n w h => ?_⟩
  · rw [decodeTableWord, decodeNumber_toNat, decode_encode]
  · rw [decodeTableWord, decodeNumber_of_le h]

theorem responseOf_toNat (v : Word) (k : IterCount) : (responseOf v k).toNat = v.toNat * 256 + k.toNat := by
  rw [responseOf, BitVec.toNat_append, ← Nat.shiftLeft_add_eq_or_of_lt k.isLt, Nat.shiftLeft_eq]

/-- Settles O5: both fields read back, and VALUE stands above the eight bits of ITERS. -/
theorem responseWordFields : Obligations.ResponseWordFields := fun v k =>
  ⟨responseValue_responseOf v k, responseIters_responseOf v k, responseOf_toNat v k⟩

/-! ## Well-formed configurations -/

theorem Config.splitWf_of_default {c : Config} (h : c.rsqrtTableSplit = .default) : c.splitWf = true := by
  rw [Config.splitWf, h]

/-- No check but that of the split looks at the split (00_scope.md R8; log 13). -/
theorem Config.wf_default_split {c : Config} (h : c.wf = true) :
    ({ c with rsqrtTableSplit := .default } : Config).wf = true := by
  obtain ⟨hangle, hsinBits, hrsqrtBits, htol, hcap, hsin, hrsqrt, -⟩ := c.wf_iff.1 h
  exact (Config.wf_iff _).2 ⟨hangle, hsinBits, hrsqrtBits, htol, hcap, hsin, hrsqrt, rfl⟩

namespace Machine

/-- Settles O40: the checks one by one, of which the default split passes the last. -/
theorem wellFormedConfigurations : Obligations.WellFormedConfigurations := by
  refine ⟨fun c hsplit => ?_, fun c => Config.wf_default_split, fun s => step_of_not_wf⟩
  have hTB (hN : 4 ≤ c.angleBits) : c.sinTableBits + 2 ≤ c.angleBits ↔ c.sinTableBits ≤ c.angleBits - 2 := by omega
  rw [Config.wf_iff, and_iff_left (Config.splitWf_of_default hsplit)]
  exact and_congr_right fun ⟨hN, _⟩ => and_congr_left' (hTB hN)

/-! ## LOG2_TABLE -/

theorem readTable_log2Table {b : Nat} (h : b < 256) : readTable log2Table b = some (log2Entry b) := by
  rw [log2Entry, readTable_eq_some_of_lt (log2Table_length ▸ h), Option.getD_some]

/-- Settles O6: the table answers for every byte, with -1 at 0 and the floor of the logarithm from 1 on. -/
theorem log2TableEntries : Obligations.Log2TableEntries := by
  refine ⟨log2Table_length, ?_, fun b hpos hle => ⟨?_, ?_⟩⟩
  · rw [readTable_log2Table (by decide), log2Entry_zero]
  · rw [readTable_log2Table (by omega), log2Entry_eq_log (by omega) (by omega)]
  · have hlog : Nat.log 2 b < 8 := Nat.log_lt_of_lt_pow (by omega) (by omega)
    omega

/-! ## Issue outside BUSY -/

theorem requestTaken_iff {c : Config} {i : Instr} :
    requestTaken c i = true ↔ requestResponds c i = true ∨ c.oodRefusedAt = .complete := by
  rw [requestTaken, Bool.or_eq_true, decide_eq_true_iff]

/-- A step that takes an Issue (10_state.md R27). -/
theorem step_issue_of_taken {s : State} {r : Request} {rest : List HostAction} {i : Instr} (hw : s.cfg.wf = true)
    (hn : (nextTurn s).1 = .host) (hp : s.pending = .issue r :: rest) (hb : s.phase ≠ .busy) (hd : decode r = .ok i)
    (hr : requestResponds s.cfg i = true ∨ s.cfg.oodRefusedAt = .complete) :
    step s = .next ((s.takeTurn.dropAction rest).takeRequest (requestOp r) (requestOperand r)) :=
  (step_eq_hostTurn hn hw).trans (hostTurn_issue_of_taken hp hb hd (requestTaken_iff.2 hr))

/-- Settles O45: the host's turn refuses the Issue by its name or takes it, and a Read right after meets a BUSY block. -/
theorem issueEffect : Obligations.IssueEffect := by
  intro s r rest hw hb hn hp
  have refuses {f : Refusal} (h : RefusedAtIssue s.cfg r f) : step s = .refused f :=
    (step_eq_hostTurn hn hw).trans (hostTurn_issue_of_refused hp hb h)
  refine ⟨fun h7 => refuses (.of_reserved _ h7), fun a hd ha ho hi => ?_, fun i hd hr => ?_⟩
  · exact refuses (.of_rsqrttbl hd ((inRsqrtDomain_eq_false_iff a).2 ha) ho hi)
  · refine ⟨_, step_issue_of_taken hw hn hp hb hd hr, rfl, rfl, rfl, rfl, rfl, rfl, rfl, rfl, rfl, rfl, rfl, rfl,
      fun rest' hn' hread => ?_⟩
    exact ⟨_, (step_eq_hostTurn hn' hw).trans (hostTurn_read_of_busy hread rfl), rfl, rfl, rfl⟩

/-! ## Reset -/

/-- Settles O51: reset leaves the block in IDLE and the host's actions as they are, so the host's next turn faults on a
Read and takes an Issue. -/
theorem resetEffect : Obligations.ResetEffect := by
  intro s ts hw hts
  refine ⟨_, step_of_reset hw (nextTurn_fst_of_cons hts), rfl, rfl, rfl, rfl, rfl, fun rest hn hp => ?_,
    fun r rest i hn hp hd hr => ?_⟩
  · exact (step_eq_hostTurn hn hw).trans (hostTurn_read_of_idle hp rfl)
  · exact ⟨_, step_issue_of_taken hw hn hp nofun hd hr, rfl, rfl, rfl⟩

/-! ## Refused before it starts, or completed whole -/

theorem requestResponds_rsqrttbl_of_refuse {c : Config} {a : Word} (ha : inRsqrtDomain a = false)
    (ho : c.rsqrtOod = .refuse) : requestResponds c (.rsqrttbl a) = false := by
  simp [requestResponds, ha, ho]

/-- What a build that refuses at Issue takes, it answers (60_exceptions.md R147; log 22). -/
theorem requestResponds_of_taken_at_issue {c : Config} {i : Instr} (ht : requestTaken c i = true)
    (hp : c.oodRefusedAt = .issue) : requestResponds c i = true :=
  (requestTaken_iff.1 ht).resolve_right (by simp [hp])

/-- Settles O56: a refusal is one of the closed list, on the host's turn or the block's; and a request in flight that
was taken by a build that refuses at Issue, or that responds, completes. -/
theorem nothingIsLeftHalfDone : Obligations.NothingIsLeftHalfDone := by
  intro s hinv hw
  refine ⟨fun f h => ?_, fun hn hb hanswered => ?_⟩
  · obtain ⟨-, hw'⟩ | ⟨-, hn, h⟩ | ⟨-, hn, h⟩ := step_eq_refused_iff.1 h
    · simp [hw] at hw'
    · obtain ⟨hb, r, rest, hp, -⟩ := hostTurn_eq_refused_iff.1 h
      exact .inl ⟨hn, hb, r, rest, hp⟩
    · obtain ⟨hb, hop, ho, hc, ha, -⟩ := (blockTurn_eq_refused_iff hinv.takeTurn hw).1 h
      refine .inr ⟨hc, hn, hb, s.a, ?_, requestResponds_rsqrttbl_of_refuse ((inRsqrtDomain_eq_false_iff _).2 ha) ho⟩
      exact (requestInFlight_eq_ok_iff s _).1 (requestInFlight_eq_rsqrttbl_iff.2 ⟨hop, rfl⟩)
  · obtain ⟨i, hd, hr⟩ : ∃ i, decode (requestOf s.op s.a) = .ok i ∧ requestResponds s.cfg i = true := by
      obtain hissue | hresponds := hanswered
      · obtain ⟨i, hi, ht⟩ := hinv.busy_taken hb
        exact ⟨i, (requestInFlight_eq_ok_iff s i).1 hi, requestResponds_of_taken_at_issue ht hissue⟩
      · exact hresponds
    obtain ⟨r, ht, hresp⟩ := step_completes hn hw hb hd hr
    exact ⟨_, i, ht, rfl, rfl, rfl, rfl, hd, hresp⟩

end Machine

end Sys2Proof
end
